-- ==== Sys2Proof/Word.lean ====
section
/-! DEFINITION. The word types of the engine: what the spec treats as bits. -/

namespace Sys2Proof

/-- A byte of a buffer or of a frame (00_scope.md R9). -/
abbrev Byte := BitVec 8

/-- A 32-bit word: a host register, a cipher word, a counter (00_scope.md R5, R7). -/
abbrev Word := BitVec 32

/-- A 64-bit word of the keyed hash (00_scope.md R5). -/
abbrev DWord := BitVec 64

/-- A byte offset in the 4096-byte register window: the engine decodes 12 bits (20_memory.md R60). -/
abbrev Offset := BitVec 12

/-- The 27 round keys RK[0..26] (10_state.md R44). -/
abbrev KeySchedule := Vector Word 27

end Sys2Proof
end

