-- ==== Sys2Proof/Syntax.lean ====
section
/-! DEFINITION. The nine commands of the opcode table (30_encoding.md R93). -/

namespace Sys2Proof

/-- A command. `len` is the byte-length operand LEN, an unsigned count (R91, R92); a command that ignores LEN has no
operand, and its LEN bits are don't-care (R95). Every other operand comes from a register or a buffer (R101). -/
inductive Instr where
  /-- INIT, OP 0x01 (45_channel.md R202). -/
  | init
  /-- ENCRYPT, OP 0x02 (40_cipher.md R118). -/
  | encrypt
  /-- DECRYPT, OP 0x03 (40_cipher.md R119). -/
  | decrypt
  /-- CBC_MAC, OP 0x04 (42_cbc_mac.md R149). -/
  | cbcmac (len : Nat)
  /-- KEYED_HASH, OP 0x05 (41_keyed_hash.md R137). -/
  | khash (len : Nat)
  /-- FRAME_ENCODE, OP 0x06 (43_frame_codec.md R172). -/
  | fenc (len : Nat)
  /-- FRAME_DECODE, OP 0x07 (43_frame_codec.md R173). -/
  | fdec (len : Nat)
  /-- SEND, OP 0x08 (45_channel.md R205). -/
  | send (len : Nat)
  /-- PROCESS_RX, OP 0x09 (45_channel.md R207). -/
  | procrx
  deriving DecidableEq, Repr

end Sys2Proof
end

