-- ==== Sys2Proof/WellFormed.lean ====
section
/-! DEFINITION. When a command is well-formed: its LEN operand fits the 16 bits of the field (30_encoding.md R91, R92).
Nothing else can be wrong with a command: an out-of-range LEN below 2^16 is reported as a status code, never as an
illegal encoding (R92). -/

namespace Sys2Proof

/-- A LEN operand that the 16-bit field of the command word can hold (R91). -/
abbrev lenFits (len : Nat) : Prop := len < 2 ^ 16

/-- The commands that some command word encodes. -/
def Instr.wellFormed : Instr → Bool
  | .init => true
  | .encrypt => true
  | .decrypt => true
  | .cbcmac len => decide (lenFits len)
  | .khash len => decide (lenFits len)
  | .fenc len => decide (lenFits len)
  | .fdec len => decide (lenFits len)
  | .send len => decide (lenFits len)
  | .procrx => true

end Sys2Proof
end

