-- ==== Sys2Proof/Decode.lean ====
section
/-! DEFINITION. The command word: its fields, the decoder, and after it the encoder (30_encoding.md R90-R96).
A command is exactly one 32-bit write (R90), so the decoder takes one word; there is no shorter or longer form. -/

namespace Sys2Proof

/-- OP, bits [7:0] of the command word (R91). -/
def cmdOp (v : Word) : BitVec 8 := v.extractLsb' 0 8

/-- RSVD, bits [15:8] of the command word (R91). -/
def cmdRsvd (v : Word) : BitVec 8 := v.extractLsb' 8 8

/-- LEN, bits [31:16] of the command word, taken as an unsigned byte count (R91, R92). -/
def cmdLen (v : Word) : Nat := (v.extractLsb' 16 16).toNat

/-- Why a command word is illegal (R94). -/
inductive DecodeError where
  /-- RSVD is not 0x00. -/
  | reservedBits (rsvd : BitVec 8)
  /-- OP is none of 0x01 to 0x09. -/
  | unknownOpcode (op : BitVec 8)
  deriving DecidableEq, Repr

/-- The decoder, total on every 32-bit word: RSVD first, then the opcode map of R93. -/
def decode (v : Word) : Except DecodeError Instr :=
  if cmdRsvd v ≠ 0 then .error (.reservedBits (cmdRsvd v))
  else if cmdOp v = 0x01 then .ok .init
  else if cmdOp v = 0x02 then .ok .encrypt
  else if cmdOp v = 0x03 then .ok .decrypt
  else if cmdOp v = 0x04 then .ok (.cbcmac (cmdLen v))
  else if cmdOp v = 0x05 then .ok (.khash (cmdLen v))
  else if cmdOp v = 0x06 then .ok (.fenc (cmdLen v))
  else if cmdOp v = 0x07 then .ok (.fdec (cmdLen v))
  else if cmdOp v = 0x08 then .ok (.send (cmdLen v))
  else if cmdOp v = 0x09 then .ok .procrx
  else .error (.unknownOpcode (cmdOp v))

/-- The word whose bits are `w` when the opcode table gives it `nbits` bits; every bit above `nbits` is 0. -/
def tableWord (nbits w : Nat) : Word := BitVec.ofNat 32 (w % 2 ^ nbits)

/-- The command that the decoder reads from a word numbered as spec/opcode_table.json numbers it. -/
def decodeTableWord (nbits w : Nat) : Option Instr :=
  match decode (tableWord nbits w) with
  | .ok i => some i
  | .error _ => none

/-- The word with the given LEN and OP and with RSVD = 0x00 (R91: `LLLLLLLL LLLLLLLL 00000000 OOOOOOOO`). -/
def commandWord (len : Nat) (op : BitVec 8) : Word :=
  (BitVec.ofNat 16 len).setWidth 32 <<< 16 ||| op.setWidth 32

/-- The encoder: the word of a command, with LEN = 0 where the command takes none (30_encoding.md R93, R98). -/
def encode : Instr → Word
  | .init => commandWord 0 0x01
  | .encrypt => commandWord 0 0x02
  | .decrypt => commandWord 0 0x03
  | .cbcmac len => commandWord len 0x04
  | .khash len => commandWord len 0x05
  | .fenc len => commandWord len 0x06
  | .fdec len => commandWord len 0x07
  | .send len => commandWord len 0x08
  | .procrx => commandWord 0 0x09

end Sys2Proof
end

