-- ==== Sys2Proof/Config.lean ====
section
/-! DEFINITION. The build-time parameters of the engine (00_scope.md R5) and the values that the spec leaves free.
An `opaque` constant has no body: nothing in Lean can evaluate it, so a theorem holds whatever it is. -/

namespace Sys2Proof.Config

/-- `ALPHA`, the cipher's right-rotation amount (00_scope.md R5, decision D2). -/
def alpha : Nat := 8

/-- `BETA`, the cipher's left-rotation amount (00_scope.md R5, decision D2). -/
def beta : Nat := 3

/-- The default value of the parameter `BUF_CAP` (00_scope.md R5, decision D26). The parameter itself is the field
`bufCap` of the state, which no step writes, so that statements hold for every capacity. -/
def bufCapDefault : Nat := 256

/-- The values that `BUF_CAP` may take: a multiple of 4 with 16 ≤ `BUF_CAP` ≤ 3840 (00_scope.md R5). -/
abbrev LegalBufCap (cap : Nat) : Prop := cap % 4 = 0 ∧ 16 ≤ cap ∧ cap ≤ 3840

/-- `ENGINE_BASE`, where the platform puts the register window (20_memory.md R60). No rule depends on it: the engine
decodes only the 12-bit offset, and so does the model. -/
opaque engineBase : Nat

/-- The physical address at which the platform shows an offset of the window (20_memory.md R60). -/
def physicalAddress (off : Offset) : Nat := engineBase + off.toNat

/-- `CHECKSUM16_FN`, left OPEN by the spec: a total function from bytes to 16 bits (00_scope.md R5, decision D13).
A free value (notes/assumptions/5.md). -/
opaque checksum16 : List Byte → BitVec 16

/-- `CHECKSUM32_FN`, left OPEN by the spec: a total function from bytes to 32 bits (00_scope.md R5, decision D13).
A free value (notes/assumptions/5.md). -/
opaque checksum32 : List Byte → BitVec 32

/-- The transport's answer to the arm request that `n` requests preceded, where the environment's script fixes none
(45_channel.md R232: a free draw at each request). A free value (notes/assumptions/6.md). -/
opaque armAnswer : Nat → Bool

/-- The transport's answer to the send request that `n` requests preceded, where the environment's script fixes none
(45_channel.md R234: a free draw). A free value (notes/assumptions/6.md). -/
opaque sendAnswer : Nat → Bool

end Sys2Proof.Config
end

