-- ==== Sys2Proof/Machine/State.lean ====
section
/-! DEFINITION. The state of the engine (10_state.md R20), the events that act on it (00_scope.md R11), the machine
right after reset (70_reset_and_hazards.md R281), and the reasons a step can stop. -/

namespace Sys2Proof.Machine

/-- The status codes (60_exceptions.md R250). No other code is ever produced (93_implementation_defined.md U18). -/
inductive Status where
  | ok | tooShort | badSync | badLength | badAuth | replay | busy | transportFailure | tooLarge
  | invalidArgument | notReady | illegalCommand
  deriving DecidableEq, Repr

/-- The receive state (10_state.md R47). -/
inductive RxState where
  | idle | receiving | frameReady | halted
  deriving DecidableEq, Repr

/-- A byte buffer by index: a list of (index, byte) pairs in the canonical form `Memory.wf`. -/
abbrev Memory := List Host.Cell

/-- What an index that the list does not name reads as (notes/assumptions/1.md, DESIGN CHOICE). -/
def unlistedByte : Byte := 0

/-- The canonical form: indices strictly rising, and no entry equal to what an unlisted index reads as. -/
abbrev Memory.wf (m : Memory) : Prop :=
  m.Pairwise (fun c d => c.1 < d.1) ∧ ∀ c ∈ m, c.2 ≠ unlistedByte

/-- What the platform's reset draws for the state that the spec leaves unspecified: the words of RK and the bytes of the
three buffers, from index 0 up (10_state.md R44, R49, 70_reset_and_hazards.md R281). A missing entry is 0, so every
assignment of words and bytes is some draw. -/
structure ResetDraw where
  rk : List Word
  data : List Byte
  rxBuf : List Byte
  txBuf : List Byte
  deriving DecidableEq, Repr

/-- One atomic step of one agent (20_memory.md R70, 00_scope.md R11). -/
inductive Event where
  /-- The host reads `width` bits at an offset of the window (20_memory.md R61). -/
  | hostRead (width : Nat) (off : Offset)
  /-- The host writes `width` bits at an offset of the window (20_memory.md R61). -/
  | hostWrite (width : Nat) (off : Offset) (value : Word)
  /-- The transport writes a received byte (45_channel.md R231). -/
  | rxByte (i : Nat) (b : Byte)
  /-- The transport signals the boundary of a reception (45_channel.md R233). -/
  | boundary (count : Nat)
  /-- The transport signals the end of a send (45_channel.md R235). -/
  | sendComplete
  /-- The platform drives `rst` (70_reset_and_hazards.md R280). -/
  | reset (draw : ResetDraw)
  deriving DecidableEq, Repr

/-- A request of the engine to the transport, with the transport's answer (45_channel.md R230). -/
inductive Request where
  /-- `Transport.arm()` (R232). -/
  | arm (ok : Bool)
  /-- `Transport.send(n)` (R234). -/
  | send (n : Nat) (ok : Bool)
  deriving DecidableEq, Repr

/-- The agents around the engine, held as plain data. These fields are the MODEL's own: no rule of the spec
names them (notes/assumptions/3.md, DESIGN CHOICE). -/
structure Env where
  /-- The steps the host, the transport and the platform take, in the one total order of 20_memory.md R70. -/
  pending : List Event
  /-- The transport's answers to the next arm requests (45_channel.md R232); past its end the answers are free. -/
  armAnswers : List Bool
  /-- The transport's answers to the next send requests (45_channel.md R234); past its end the answers are free. -/
  sendAnswers : List Bool
  /-- Every request made so far, the newest first. -/
  requests : List Request
  /-- The word that the last host read returned; `none` before any read, and from a bus error, which returns no data, to
  the next read that returns some. -/
  readData : Option Word
  /-- The offsets of the host's accesses that ended in a bus error, the newest first: the marks of 60_exceptions.md R255
  on the host's run (notes/assumptions/7.md). -/
  hostFaults : List Offset
  deriving DecidableEq, Repr

/-- The state of the engine: exactly what 10_state.md R20 lists, the build-time capacity, and the agents around it. -/
@[ext]
structure State where
  /-- STATUS.CODE (R24). -/
  statusCode : Status
  /-- ARG0 (R25). -/
  arg0 : Word
  /-- ARG1 (R25). -/
  arg1 : Word
  /-- RES0 (R26). -/
  res0 : Word
  /-- RES1 (R26). -/
  res1 : Word
  /-- RES_LEN[15:0] (R27). -/
  resLen : BitVec 16
  /-- LAST_ERROR[7:0], a status code (R28). -/
  lastError : Status
  /-- KEY0 (R29). -/
  key0 : Word
  /-- KEY1 (R29). -/
  key1 : Word
  /-- KEY2 (R29). -/
  key2 : Word
  /-- KEY3 (R29). -/
  key3 : Word
  /-- PROFILE[6:0] (R33). -/
  profile : BitVec 7
  /-- SYNC (R34). -/
  sync : Word
  /-- MAX_PAYLOAD[15:0] (R35). -/
  maxPayload : BitVec 16
  /-- TX_COUNTER (R36). -/
  txCounter : Word
  /-- LAST_ACCEPTED (R37). -/
  lastAccepted : Word
  /-- PACKETS_SENT (R38). -/
  packetsSent : Word
  /-- PACKETS_RECEIVED (R39). -/
  packetsReceived : Word
  /-- ERRORS_DETECTED (R40). -/
  errorsDetected : Word
  /-- RX_LEN[15:0] (R41). -/
  rxLen : BitVec 16
  /-- TX_DONE, the one stored bit of IRQ_STATUS (R42). -/
  txDone : Bool
  /-- IRQ_ENABLE[2:0] (R43). -/
  irqEnable : BitVec 3
  /-- RK[0..26] (R44). -/
  rk : KeySchedule
  /-- INIT_DONE (R46). -/
  initDone : Bool
  /-- RX_STATE (R47). -/
  rxState : RxState
  /-- TX_BUSY (R48). -/
  txBusy : Bool
  /-- DATA[0..BUF_CAP) (R49). -/
  data : Memory
  /-- RX_BUF[0..BUF_CAP) (R49). -/
  rxBuf : Memory
  /-- TX_BUF[0..BUF_CAP) (R49). -/
  txBuf : Memory
  /-- The build-time parameter `BUF_CAP` (00_scope.md R5), which BUFCAP shows (R45); no step writes it
  (notes/assumptions/4.md). -/
  bufCap : Nat
  /-- The agents around the engine: the model's own. -/
  env : Env
  deriving DecidableEq, Repr

/-- The machine right after reset (70_reset_and_hazards.md R281), with nothing pending. RK and the bytes of the buffers,
which the spec leaves unspecified, are 0 here (notes/assumptions/1.md, 2.md); a reset EVENT draws them. -/
def State.reset : State where
  statusCode := .ok
  arg0 := 0
  arg1 := 0
  res0 := 0
  res1 := 0
  resLen := 0
  lastError := .ok
  key0 := 0
  key1 := 0
  key2 := 0
  key3 := 0
  profile := 0x20
  sync := 0x000055AA
  maxPayload := 64
  txCounter := 0
  lastAccepted := 0
  packetsSent := 0
  packetsReceived := 0
  errorsDetected := 0
  rxLen := 0
  txDone := false
  irqEnable := 0
  rk := Vector.replicate 27 0
  initDone := false
  rxState := .idle
  txBusy := false
  data := []
  rxBuf := []
  txBuf := []
  bufCap := Config.bufCapDefault
  env := { pending := [], armAnswers := [], sendAnswers := [], requests := [], readData := none, hostFaults := [] }

/-- Why an event faults. -/
inductive Fault where
  /-- `BusError(off)`: the host's access is not 32 bits wide, not aligned, or at an unmapped offset (20_memory.md R63,
  60_exceptions.md R255). Raised by a host read and a host write; no command raises it. It is a fault of the HOST at that
  access: `step` marks it on the host's run and goes on, for the engine itself stays usable. SAFE: it is the spec's own. -/
  | busError (off : Offset)
  deriving DecidableEq, Repr

/-- Why a step has no meaning. -/
inductive Refusal where
  /-- An instruction that the model gives no meaning. SAFE. No arm of `exec` raises it: all nine commands are modelled. -/
  | notModelled (mnemonic : String)
  deriving DecidableEq, Repr

/-- What a step, an event and a meaning answer. -/
abbrev Result := Host.Outcome State Fault Refusal

end Sys2Proof.Machine
end

