-- ==== Sys2Proof/Machine/Ops.lean ====
section
/-! DEFINITION. The shared operations on the state: the byte buffers, the end of a command, the requests to the
transport, and reset. The engine takes no traps (60_exceptions.md R257, R258): what a processor would do by taking an
exception, it does by `State.finish` with an error code, and there is nothing to return from. -/

namespace Sys2Proof.Machine

/-! ### Byte buffers (10_state.md R49) -/

/-- The byte at an index of a buffer. -/
def Memory.read : Memory → Nat → Byte
  | [], _ => unlistedByte
  | c :: m, a => if a = c.1 then c.2 else Memory.read m a

/-- Writes one byte and keeps the canonical form: the byte that an unlisted index reads as removes the entry. -/
def Memory.write : Memory → Nat → Byte → Memory
  | [], a, v => if v = unlistedByte then [] else [(a, v)]
  | c :: m, a, v =>
    if a < c.1 then (if v = unlistedByte then c :: m else (a, v) :: c :: m)
    else if a = c.1 then (if v = unlistedByte then m else (a, v) :: m)
    else c :: Memory.write m a v

/-- The bytes `B[a..a+n)` of a buffer (00_scope.md R9). -/
def Memory.readBytes (m : Memory) (a : Nat) : Nat → List Byte
  | 0 => []
  | n + 1 => m.read a :: Memory.readBytes m (a + 1) n

/-- Writes a byte sequence at consecutive indices from `a` up. -/
def Memory.writeBytes (m : Memory) (a : Nat) : List Byte → Memory
  | [] => m
  | b :: bs => Memory.writeBytes (m.write a b) (a + 1) bs

/-- Every listed index lies below the capacity (00_scope.md R10: no rule writes outside that range). -/
abbrev Memory.within (cap : Nat) (m : Memory) : Prop := ∀ c ∈ m, c.1 < cap

/-! ### Ending a command -/

/-- `finish(code)`: ends the running command, writing STATUS.CODE and no further state (00_scope.md R10,
60_exceptions.md R252). -/
def State.finish (s : State) (code : Status) : State := { s with statusCode := code }

/-- Writes RES0 and RES1 (10_state.md R26). -/
def State.setResult (s : State) (r0 r1 : Word) : State := { s with res0 := r0, res1 := r1 }

/-- Writes RES_LEN, of which bits [15:0] hold a byte count (10_state.md R27). -/
def State.setResLen (s : State) (n : Nat) : State := { s with resLen := BitVec.ofNat 16 n }

/-- The failure of a length-producing command: RES_LEN ← 0, then the code (10_state.md R27, decision D53). -/
def State.failLength (s : State) (code : Status) : State := (s.setResLen 0).finish code

/-- The second test of dispatch (30_encoding.md R96), which every command but INIT makes before its own rule: NOT_READY
while INIT_DONE = 0, changing nothing but STATUS.CODE. -/
def whenReady (s : State) (command : State → State) : Result :=
  .next (if s.initDone then command s else s.finish .notReady)

/-! ### Requests to the transport (45_channel.md R230) -/

/-- The transport's answer to the next `Transport.arm()` (R232): what the environment's script says, else a free draw. -/
def State.nextArmAnswer (s : State) : Bool :=
  match s.env.armAnswers with
  | ok :: _ => ok
  | [] => Config.armAnswer s.env.requests.length

/-- The transport's answer to the next `Transport.send(n)` (R234): what the environment's script says, else a free draw. -/
def State.nextSendAnswer (s : State) : Bool :=
  match s.env.sendAnswers with
  | ok :: _ => ok
  | [] => Config.sendAnswer s.env.requests.length

/-- The environment after an arm request has been answered. -/
def Env.afterArm (e : Env) (ok : Bool) : Env :=
  { e with armAnswers := e.armAnswers.tail, requests := .arm ok :: e.requests }

/-- The environment after a send request for `n` bytes has been answered. -/
def Env.afterSend (e : Env) (n : Nat) (ok : Bool) : Env :=
  { e with sendAnswers := e.sendAnswers.tail, requests := .send n ok :: e.requests }

/-- StartReceive() (45_channel.md R204): one arm request; RX_RECEIVING if the transport accepts it, RX_HALTED if it
refuses. RX_BUF and RX_LEN are not cleared. -/
def State.startReceive (s : State) : State :=
  { s with
    rxState := if s.nextArmAnswer then .receiving else .halted
    env := s.env.afterArm s.nextArmAnswer }

/-! ### Reset (70_reset_and_hazards.md R280, R281) -/

/-- The words of RK that a reset draws (10_state.md R44). -/
def ResetDraw.schedule (d : ResetDraw) : KeySchedule := Vector.ofFn fun i => d.rk.getD i 0

/-- The contents of a buffer of `cap` bytes that a reset draws (10_state.md R49). -/
def drawnBuffer (cap : Nat) (bytes : List Byte) : Memory := Memory.writeBytes [] 0 (bytes.take cap)

/-- Reset: every piece of state at its reset value, RK and the buffers at what is drawn. It makes no transport request,
and the agents around the engine stay as they are (R280). -/
def resetEngine (d : ResetDraw) (s : State) : State :=
  { State.reset with
    rk := d.schedule
    data := drawnBuffer s.bufCap d.data
    rxBuf := drawnBuffer s.bufCap d.rxBuf
    txBuf := drawnBuffer s.bufCap d.txBuf
    bufCap := s.bufCap
    env := s.env }

/-! ### The host's bus errors (20_memory.md R63, 60_exceptions.md R255) -/

/-- The environment after a host access at `off` that ended in a bus error: the host's run is marked as faulted there,
and no data is returned. -/
def Env.afterBusError (e : Env) (off : Offset) : Env :=
  { e with readData := none, hostFaults := off :: e.hostFaults }

/-- The state after such an access: nothing of the engine changes, and it stays usable. -/
def State.markHostFault (s : State) (off : Offset) : State := { s with env := s.env.afterBusError off }

/-- What a step of the machine makes of what one event in `s` answers: a fault of the host is marked on the host's run,
and the machine goes on; anything else stands. -/
def settle (s : State) (r : Result) : Result :=
  match r with
  | .fault (.busError off) => .next (s.markHostFault off)
  | .next t => .next t
  | .refused why => .refused why

/-! ### The order of the agents' steps (20_memory.md R70) -/

/-- The next event and the state in which it happens, when some agent steps. -/
def State.nextEvent (s : State) : Option (Event × State) :=
  match s.env.pending with
  | [] => none
  | e :: rest => some (e, { s with env := { s.env with pending := rest } })

/-- Puts an event before all the others. -/
def State.pushEvent (s : State) (e : Event) : State :=
  { s with env := { s.env with pending := e :: s.env.pending } }

end Sys2Proof.Machine
end

