-- ==== Sys2Proof/Machine/Operands.lean ====
section
/-! DEFINITION. Byte sequences, byte orders, rotations and cipher blocks (00_scope.md R7-R9, 40_cipher.md R110, R111), and
the operands a command takes from DATA (30_encoding.md R101). -/

namespace Sys2Proof.Machine

/-! ### Rotations (00_scope.md R8) -/

/-- `ROR32(v, r)`. -/
def ror32 (v : Word) (r : Nat) : Word := v >>> r ||| v <<< (32 - r)

/-- `ROL32(v, r)`. -/
def rol32 (v : Word) (r : Nat) : Word := v <<< r ||| v >>> (32 - r)

/-- `ROL64(v, r)`. -/
def rol64 (v : DWord) (r : Nat) : DWord := v <<< r ||| v >>> (64 - r)

/-! ### Serialization (00_scope.md R9) -/

/-- The byte order of a multi-byte field. -/
inductive Order where
  | le | be
  deriving DecidableEq, Repr

/-- The `n` bytes of a value, the least significant first. -/
def serLE : Nat → Nat → List Byte
  | 0, _ => []
  | n + 1, v => BitVec.ofNat 8 v :: serLE n (v / 256)

/-- The value of a byte sequence, the least significant first. -/
def deserLE : List Byte → Nat
  | [] => 0
  | b :: bs => b.toNat + 256 * deserLE bs

/-- `ser_n(v, order)`. -/
def ser (n v : Nat) (order : Order) : List Byte :=
  match order with
  | .le => serLE n v
  | .be => (serLE n v).reverse

/-- `deser(bytes, order)`. -/
def deser (bs : List Byte) (order : Order) : Nat :=
  match order with
  | .le => deserLE bs
  | .be => deserLE bs.reverse

/-- `LE32` of four bytes. -/
def le32 (bs : List Byte) : Word := BitVec.ofNat 32 (deserLE bs)

/-- `LE64` of eight bytes. -/
def le64 (bs : List Byte) : DWord := BitVec.ofNat 64 (deserLE bs)

/-! ### Slices -/

/-- The bytes `d[a..a+n)` of a sequence. -/
def slice (d : List Byte) (a n : Nat) : List Byte := (d.drop a).take n

/-- The first `k` 8-byte pieces of a sequence. -/
def pieces : Nat → List Byte → List (List Byte)
  | 0, _ => []
  | k + 1, d => d.take 8 :: pieces k (d.drop 8)

/-- The whole 8-byte pieces of a sequence, in order. -/
def wholePieces (d : List Byte) : List (List Byte) := pieces (d.length / 8) d

/-- The final 0 to 7 bytes that belong to no whole piece. -/
def lastBytes (d : List Byte) : List Byte := d.drop (8 * (d.length / 8))

/-- The bytewise exclusive-or of two sequences, as long as the shorter. -/
def xorBytes (d e : List Byte) : List Byte := List.zipWith (· ^^^ ·) d e

/-! ### Cipher blocks (40_cipher.md R110, R111) -/

/-- A cipher block: `w0` is the first word, `w1` the second (R110). -/
@[ext] structure Block where
  w0 : Word
  w1 : Word
  deriving DecidableEq, Repr

/-- The block read from 8 bytes (R111). -/
def Block.ofBytes (b : List Byte) : Block := ⟨le32 (b.take 4), le32 (b.drop 4)⟩

/-- The 8 bytes a block is written back as (R111). -/
def Block.toBytes (b : Block) : List Byte := serLE 4 b.w0.toNat ++ serLE 4 b.w1.toNat

/-- The wordwise exclusive-or of two blocks (42_cbc_mac.md R147). -/
def Block.xor (a b : Block) : Block := ⟨a.w0 ^^^ b.w0, a.w1 ^^^ b.w1⟩

/-! ### Operands from DATA (30_encoding.md R101) -/

/-- `DATA[0..len)`. -/
def State.dataPrefix (s : State) (len : Nat) : List Byte := s.data.readBytes 0 len

end Sys2Proof.Machine
end

