-- ==== Sys2Proof/Machine/Cipher.lean ====
section
/-! DEFINITION. The block cipher engine and its two commands (40_cipher.md R110-R120). -/

namespace Sys2Proof.Machine

/-- One encryption round with round key `k` (R112). -/
def encRound (k : Word) (b : Block) : Block :=
  let w0 := (ror32 b.w0 Config.alpha + b.w1) ^^^ k
  ⟨w0, rol32 b.w1 Config.beta ^^^ w0⟩

/-- One decryption round with round key `k` (R113). -/
def decRound (k : Word) (b : Block) : Block :=
  let w1 := ror32 (b.w1 ^^^ b.w0) Config.beta
  ⟨rol32 ((b.w0 ^^^ k) - w1) Config.alpha, w1⟩

/-- The `n` round keys that follow `k[i] = k`, with `l0`, `l1`, `l2` the words l[i], l[i+1], l[i+2] (R114). -/
def nextKeys : (n i : Nat) → (k l0 l1 l2 : Word) → List Word
  | 0, _, _, _, _, _ => []
  | n + 1, i, k, l0, l1, l2 =>
    let l3 := (k + ror32 l0 Config.alpha) ^^^ BitVec.ofNat 32 i
    let k' := rol32 k Config.beta ^^^ l3
    k' :: nextKeys n (i + 1) k' l1 l2 l3

/-- `nextKeys n` lists `n` keys. -/
theorem nextKeys_length (n i : Nat) (k l0 l1 l2 : Word) : (nextKeys n i k l0 l1 l2).length = n := by
  induction n generalizing i k l0 l1 l2 with
  | zero => rfl
  | succ n ih => simp [nextKeys, ih]

/-- KeySchedule(K0, K1, K2, K3) (R114). -/
def keySchedule (k0 k1 k2 k3 : Word) : KeySchedule :=
  ⟨(k0 :: nextKeys 26 0 k0 k1 k2 k3).toArray, by simp [nextKeys_length]⟩

/-- Encrypt(RK, b): the rounds with RK[0], RK[1], …, RK[26] in this order (R115). -/
def encrypt (rk : KeySchedule) (b : Block) : Block := rk.toList.foldl (fun b k => encRound k b) b

/-- Decrypt(RK, b): the inverse rounds with RK[26], RK[25], …, RK[0] in this order (R116). -/
def decrypt (rk : KeySchedule) (b : Block) : Block := rk.toList.foldr decRound b

/-- ENCRYPT (R118). -/
def execEncrypt (s : State) : Result :=
  whenReady s fun s =>
    let r := encrypt s.rk ⟨s.arg0, s.arg1⟩
    (s.setResult r.w0 r.w1).finish .ok

/-- DECRYPT (R119). -/
def execDecrypt (s : State) : Result :=
  whenReady s fun s =>
    let r := decrypt s.rk ⟨s.arg0, s.arg1⟩
    (s.setResult r.w0 r.w1).finish .ok

end Sys2Proof.Machine
end

