-- ==== Sys2Proof/Machine/CbcMac.lean ====
section
/-! DEFINITION. The MAC over the block cipher and its command (42_cbc_mac.md R145-R150). -/

namespace Sys2Proof.Machine

/-- The padded input: 0x80 and the fewest zero bytes that make the length a multiple of 8, for an input that is not
aligned or is empty; an aligned non-empty input as it is (R145). -/
def macPad (d : List Byte) : List Byte :=
  if d.length % 8 ≠ 0 ∨ d.length = 0 then
    d ++ 0x80 :: List.replicate ((7 - d.length % 8) % 8) 0
  else d

/-- The blocks P_0 .. P_(N-1) of the padded input (R146). -/
def macBlocks (d : List Byte) : List Block := (wholePieces (macPad d)).map Block.ofBytes

/-- The chaining from C_(j-1) = `c` through the blocks P_j, P_(j+1), … (R147, j ≥ 1). -/
def macChain (rk : KeySchedule) (c : Block) : List Block → Block
  | [] => c
  | p :: ps => macChain rk (encrypt rk (p.xor c)) ps

/-- The final cipher block (R147). Block 0 is encrypted directly, with no exclusive-or: there is no IV. The empty list of
blocks never occurs (R146: N ≥ 1). -/
def macTag (rk : KeySchedule) (d : List Byte) : Block :=
  match macBlocks d with
  | [] => ⟨0, 0⟩
  | p :: ps => macChain rk (encrypt rk p) ps

/-- CbcMac(RK, d), the 8 tag bytes (R148). -/
def cbcMac (rk : KeySchedule) (d : List Byte) : List Byte := (macTag rk d).toBytes

/-- CBC_MAC (R149). -/
def execCbcmac (len : Nat) (s : State) : Result :=
  whenReady s fun s =>
    if s.bufCap < len then s.finish .invalidArgument
    else
      let t := cbcMac s.rk (s.dataPrefix len)
      (s.setResult (le32 (t.take 4)) (le32 (t.drop 4))).finish .ok

end Sys2Proof.Machine
end

