-- ==== Sys2Proof/Machine/KeyedHash.lean ====
section
/-! DEFINITION. The keyed hash MAC and its command (41_keyed_hash.md R130-R138). -/

namespace Sys2Proof.Machine

/-- The four internal 64-bit words of the hash. -/
structure HashState where
  v0 : DWord
  v1 : DWord
  v2 : DWord
  v3 : DWord
  deriving DecidableEq, Repr

/-- Initialization from the two key halves (R131). -/
def hashInit (k0 k1 : DWord) : HashState where
  v0 := k0 ^^^ 0x736f6d6570736575
  v1 := k1 ^^^ 0x646f72616e646f6d
  v2 := k0 ^^^ 0x6c7967656e657261
  v3 := k1 ^^^ 0x7465646279746573

/-- SipRound (R132). -/
def sipRound (s : HashState) : HashState :=
  let a0 := s.v0 + s.v1
  let a1 := rol64 s.v1 13 ^^^ a0
  let b0 := rol64 a0 32
  let a2 := s.v2 + s.v3
  let a3 := rol64 s.v3 16 ^^^ a2
  let c0 := b0 + a3
  let c3 := rol64 a3 21 ^^^ c0
  let c2 := a2 + a1
  let c1 := rol64 a1 17 ^^^ c2
  ⟨c0, c1, rol64 c2 32, c3⟩

/-- The mixing of one message word: into v3 before two SipRounds, into v0 after them (R133). -/
def hashWord (s : HashState) (m : DWord) : HashState :=
  let t := sipRound (sipRound { s with v3 := s.v3 ^^^ m })
  { t with v0 := t.v0 ^^^ m }

/-- The final word: the last 0 to 7 bytes in the low bytes, and the length modulo 256 in the top byte (R134). -/
def hashLastWord (d : List Byte) : DWord :=
  BitVec.ofNat 64 (d.length % 256) <<< 56
    ||| le64 (lastBytes d ++ List.replicate (8 - d.length % 8) 0)

/-- Finalization: 0xff into v2, then four SipRounds (R135). -/
def hashFinish (s : HashState) : HashState :=
  sipRound (sipRound (sipRound (sipRound { s with v2 := s.v2 ^^^ 0x00000000000000ff })))

/-- KeyedHash(k0, k1, d) (R133-R136). -/
def keyedHash (k0 k1 : DWord) (d : List Byte) : DWord :=
  let s := ((wholePieces d).map le64).foldl hashWord (hashInit k0 k1)
  let t := hashFinish (hashWord s (hashLastWord d))
  t.v0 ^^^ t.v1 ^^^ t.v2 ^^^ t.v3

/-- `{hi, lo}`: a 64-bit key half from two key words (R130). -/
def keyHalf (hi lo : Word) : DWord := hi ++ lo

/-- KEYED_HASH (R137). -/
def execKhash (len : Nat) (s : State) : Result :=
  whenReady s fun s =>
    if s.bufCap < len then s.finish .invalidArgument
    else
      let h := keyedHash (keyHalf s.key1 s.key0) (keyHalf s.key3 s.key2) (s.dataPrefix len)
      (s.setResult (h.extractLsb' 0 32) (h.extractLsb' 32 32)).finish .ok

end Sys2Proof.Machine
end

