-- ==== Sys2Proof/Machine/Codec.lean ====
section
/-! DEFINITION. The frame codec and its two commands (43_frame_codec.md R160-R174). -/

namespace Sys2Proof.Machine

/-- What the codec reads of the state: the frozen profile, the key schedule and the key. -/
structure Codec where
  profile : BitVec 7
  sync : Word
  maxPayload : BitVec 16
  rk : KeySchedule
  key0 : Word
  key1 : Word
  key2 : Word
  key3 : Word
  deriving DecidableEq, Repr

/-- The codec of an engine. -/
def State.codec (s : State) : Codec where
  profile := s.profile
  sync := s.sync
  maxPayload := s.maxPayload
  rk := s.rk
  key0 := s.key0
  key1 := s.key1
  key2 := s.key2
  key3 := s.key3

/-! ### The profile's fields (10_state.md R33-R35) and the quantities derived from them (R161) -/

/-- PROFILE.AUTH (10_state.md R33). -/
inductive Authenticator where
  | cipherMac | keyedHash | checksum16 | checksum32
  deriving DecidableEq, Repr

/-- PROFILE.AUTH, bits [1:0]. -/
def Codec.authenticator (c : Codec) : Authenticator :=
  match (c.profile.extractLsb' 0 2).toNat with
  | 0 => .cipherMac
  | 1 => .keyedHash
  | 2 => .checksum16
  | _ => .checksum32

/-- PROFILE.ENC, bit 2. -/
def Codec.enc (c : Codec) : Bool := c.profile.getLsbD 2

/-- ORDER, from PROFILE.CTR_BE, bit 3. -/
def Codec.order (c : Codec) : Order := if c.profile.getLsbD 3 then .be else .le

/-- LW, the width of the length field: PROFILE.LEN_W, bit 4, plus 1. -/
def Codec.lenBytes (c : Codec) : Nat := (c.profile.extractLsb' 4 1).toNat + 1

/-- S, the length of the sync marker: PROFILE.SYNC_LEN, bits [6:5], plus 1. -/
def Codec.syncLen (c : Codec) : Nat := (c.profile.extractLsb' 5 2).toNat + 1

/-- H, the length of the header. -/
def Codec.headerLen (c : Codec) : Nat := c.syncLen + 4 + c.lenBytes

/-- T, the length of the trailer. -/
def Codec.tagLen (c : Codec) : Nat :=
  match c.authenticator with
  | .cipherMac => 8
  | .keyedHash => 8
  | .checksum16 => 2
  | .checksum32 => 4

/-- MAX, the largest payload. -/
def Codec.maxLen (c : Codec) : Nat := c.maxPayload.toNat

/-- MIN_FRAME, the frame with an empty payload. -/
def Codec.minFrame (c : Codec) : Nat := c.headerLen + c.tagLen

/-- MAX_FRAME. -/
def Codec.maxFrame (c : Codec) : Nat := c.headerLen + c.maxLen + c.tagLen

/-- The sync marker: byte j is SYNC[8j+7:8j], for 0 ≤ j < S (R162, 10_state.md R34). -/
def Codec.syncBytes (c : Codec) : List Byte := serLE c.syncLen c.sync.toNat

/-! ### Payload protection (R165, R166) -/

/-- The keystream bytes for a final partial block: Encrypt(RK, (ctr, n)) written as bytes (R165). -/
def Codec.keystream (c : Codec) (ctr : Word) (n : Nat) : List Byte :=
  (encrypt c.rk ⟨ctr, BitVec.ofNat 32 n⟩).toBytes

/-- The payload transform of R165 and R166 over a block function: each whole block on its own, and the final partial
block, if there is one, XORed with the keystream. -/
def Codec.transform (c : Codec) (f : Block → Block) (ctr : Word) (pl : List Byte) : List Byte :=
  ((wholePieces pl).map fun b => (f (Block.ofBytes b)).toBytes).flatten
    ++ xorBytes (lastBytes pl) (c.keystream ctr pl.length)

/-- EncPayload(RK, ctr, pl) (R165). -/
def Codec.encPayload (c : Codec) (ctr : Word) (pl : List Byte) : List Byte :=
  if c.enc then c.transform (encrypt c.rk) ctr pl else pl

/-- DecPayload(RK, ctr, pl) (R166). -/
def Codec.decPayload (c : Codec) (ctr : Word) (pl : List Byte) : List Byte :=
  if c.enc then c.transform (decrypt c.rk) ctr pl else pl

/-! ### The authenticator (R167) -/

/-- Auth(d), T bytes. -/
def Codec.auth (c : Codec) (d : List Byte) : List Byte :=
  match c.authenticator with
  | .cipherMac => cbcMac c.rk d
  | .keyedHash => serLE 8 (keyedHash (keyHalf c.key1 c.key0) (keyHalf c.key3 c.key2) d).toNat
  | .checksum16 => ser 2 (Config.checksum16 d).toNat c.order
  | .checksum32 => ser 4 (Config.checksum32 d).toNat c.order

/-! ### Encode and decode (R169, R170) -/

/-- The header of a frame: sync marker, counter, payload length (R160, R162-R164). -/
def Codec.header (c : Codec) (ctr : Word) (n : Nat) : List Byte :=
  c.syncBytes ++ ser 4 ctr.toNat c.order ++ ser c.lenBytes n c.order

/-- FrameEncode(ctr, pl) (R169): the tag is over the header and the ciphertext payload. -/
def Codec.frameEncode (c : Codec) (ctr : Word) (pl : List Byte) : List Byte :=
  let body := c.header ctr pl.length ++ c.encPayload ctr pl
  body ++ c.auth body

/-- The outcome of FrameCheck. -/
inductive CheckResult where
  | bad (e : Status)
  | checked (ctr : Word) (n : Nat)
  deriving DecidableEq, Repr

/-- The declared payload length of a received range (R164). -/
def Codec.declaredLen (c : Codec) (d : List Byte) : Nat := deser (slice d (c.syncLen + 4) c.lenBytes) c.order

/-- The counter of a received range (R163). -/
def Codec.counterOf (c : Codec) (d : List Byte) : Word := BitVec.ofNat 32 (deser (slice d c.syncLen 4) c.order)

/-- FrameCheck on the received range `d` = buf[0..L): the first failing check decides (R170). Time is not modelled
(R168, notes/assumptions/12.md). Nothing beyond the range is
read, for there is nothing beyond it (R171). -/
def Codec.frameCheck (c : Codec) (d : List Byte) : CheckResult :=
  let n := c.declaredLen d
  if d.length < c.minFrame then .bad .tooShort
  else if d.take c.syncLen ≠ c.syncBytes then .bad .badSync
  else if c.maxLen < n ∨ d.length < c.headerLen + n + c.tagLen then .bad .badLength
  else if slice d (c.headerLen + n) c.tagLen ≠ c.auth (d.take (c.headerLen + n)) then .bad .badAuth
  else .checked (c.counterOf d) n

/-- The deciphered payload of a checked frame (R166). -/
def Codec.payloadOf (c : Codec) (d : List Byte) (ctr : Word) (n : Nat) : List Byte :=
  c.decPayload ctr (slice d c.headerLen n)

/-- The outcome of FrameDecode. -/
inductive DecodeResult where
  | bad (e : Status)
  | frame (ctr : Word) (pl : List Byte)
  deriving DecidableEq, Repr

/-- FrameDecode on the received range `d` (R170): decryption comes only after every check. -/
def Codec.frameDecode (c : Codec) (d : List Byte) : DecodeResult :=
  match c.frameCheck d with
  | .bad e => .bad e
  | .checked ctr n => .frame ctr (c.payloadOf d ctr n)

/-! ### Commands -/

/-- FRAME_ENCODE (R172). The payload is read whole before any byte of DATA is written. -/
def execFenc (len : Nat) (s : State) : Result :=
  whenReady s fun s =>
    if s.codec.maxLen < len then s.failLength .tooLarge
    else
      let f := s.codec.frameEncode s.arg0 (s.dataPrefix len)
      ({ s with data := s.data.writeBytes 0 f, res0 := s.arg0 }.setResLen f.length).finish .ok

/-- FRAME_DECODE (R173). -/
def execFdec (len : Nat) (s : State) : Result :=
  whenReady s fun s =>
    if s.bufCap < len then s.failLength .invalidArgument
    else match s.codec.frameDecode (s.dataPrefix len) with
      | .bad e => s.failLength e
      | .frame ctr pl =>
        ({ s with data := s.data.writeBytes 0 pl, res0 := ctr }.setResLen pl.length).finish .ok

end Sys2Proof.Machine
end

