-- ==== Sys2Proof/Machine/Channel.lean ====
section
/-! DEFINITION. The channel's state machine: INIT, SEND and PROCESS_RX, the transport's events, and the replay guard
(44_replay_guard.md R190-R195, 45_channel.md R200-R236). -/

namespace Sys2Proof.Machine

/-! ### INIT -/

/-- ProfileLegal() (45_channel.md R203). -/
def profileLegal (c : Codec) (bufCap : Nat) : Bool :=
  !(c.lenBytes == 1 && decide (255 < c.maxLen)) && !decide (bufCap < c.headerLen + c.maxLen + c.tagLen)

/-- The part of INIT after its two checks: the key schedule, the lock, and the implicit StartReceive (R202). -/
def State.openChannel (s : State) : State :=
  State.startReceive { s with rk := keySchedule s.key0 s.key1 s.key2 s.key3, initDone := true }

/-- The code of an INIT whose checks have passed: the implicit arm may have been refused (R202). -/
def openCode (s : State) : Status := if s.rxState = .halted then .transportFailure else .ok

/-- INIT (R202). It is the one command that runs while INIT_DONE = 0 (30_encoding.md R96). -/
def execInit (s : State) : Result :=
  .next <|
    if s.initDone then s.finish .invalidArgument
    else if profileLegal s.codec s.bufCap then s.openChannel.finish (openCode s.openChannel)
    else s.finish .invalidArgument

/-! ### SEND -/

/-- The part of SEND before the hand-off: the counter is consumed, the frame is built in TX_BUF, RES0 is the counter
(R205, R206). -/
def State.buildFrame (s : State) (frame : List Byte) : State :=
  { s with
    txCounter := s.txCounter + 1
    txBuf := s.txBuf.writeBytes 0 frame
    res0 := s.txCounter + 1 }

/-- The hand-off of the `n` bytes TX_BUF[0..n) to the transport (R205, R234). -/
def State.handOff (s : State) (n : Nat) : State :=
  let t : State := { s with env := s.env.afterSend n s.nextSendAnswer }
  if s.nextSendAnswer then
    ({ t with txBusy := true, packetsSent := s.packetsSent + 1 }.setResLen n).finish .ok
  else t.failLength .transportFailure

/-- SEND (R205). -/
def execSend (len : Nat) (s : State) : Result :=
  whenReady s fun s =>
    if s.txBusy then s.failLength .busy
    else if s.codec.maxLen < len then s.failLength .tooLarge
    else
      let f := s.codec.frameEncode (s.txCounter + 1) (s.dataPrefix len)
      (s.buildFrame f).handOff f.length

/-! ### The replay guard and PROCESS_RX -/

/-- Accept(c) over unsigned values (44_replay_guard.md R191), with the bootstrap case as the spec states it (R193). -/
def accepts (lastAccepted c : Word) : Bool := decide (lastAccepted < c) || lastAccepted == 0

/-- Reject(e) of PROCESS_RX (45_channel.md R207): count, record, re-arm, report. -/
def State.reject (s : State) (e : Status) : State :=
  (State.startReceive
    { s with errorsDetected := s.errorsDetected + 1, lastError := e, resLen := 0 }).finish e

/-- The acceptance of a frame by PROCESS_RX (R207, R208): guard update, count, delivery, re-arm. -/
def State.deliver (s : State) (ctr : Word) (pl : List Byte) : State :=
  (State.startReceive
    { s with
      lastAccepted := ctr
      packetsReceived := s.packetsReceived + 1
      data := s.data.writeBytes 0 pl
      res0 := ctr
      resLen := BitVec.ofNat 16 pl.length }).finish .ok

/-- The bytes of the reception that awaits PROCESS_RX, RX_BUF[0..RX_LEN). -/
def State.received (s : State) : List Byte := s.rxBuf.readBytes 0 s.rxLen.toNat

/-- PROCESS_RX (R207): length bound, sync, authentication, replay, decryption, guard update, in this order. -/
def execProcrx (s : State) : Result :=
  whenReady s fun s =>
    if s.rxState = .frameReady then
      match s.codec.frameCheck s.received with
      | .bad e => s.reject e
      | .checked ctr n =>
        if accepts s.lastAccepted ctr then s.deliver ctr (s.codec.payloadOf s.received ctr n)
        else s.reject .replay
    else s.finish .notReady

/-! ### The transport's events -/

/-- RxByte(i, b) (R231). -/
def rxByte (i : Nat) (b : Byte) (s : State) : State :=
  if s.rxState = .receiving ∧ i < s.bufCap then { s with rxBuf := s.rxBuf.write i b } else s

/-- Boundary(count) (R233). A stray boundary is ignored, a count above `BUF_CAP` is clamped, a runt is counted and
reception is armed again. -/
def boundary (count : Nat) (s : State) : State :=
  if s.rxState = .receiving then
    if min count s.bufCap < s.codec.minFrame then
      State.startReceive { s with errorsDetected := s.errorsDetected + 1, lastError := .tooShort }
    else { s with rxLen := BitVec.ofNat 16 (min count s.bufCap), rxState := .frameReady }
  else s

/-- SendComplete (R235). -/
def sendComplete (s : State) : State :=
  if s.txBusy then { s with txBusy := false, txDone := true } else s

end Sys2Proof.Machine
end

