-- ==== Sys2Proof/Machine/Dispatch.lean ====
section
/-! DEFINITION. The meaning of each command, one arm each. -/

namespace Sys2Proof.Machine

def exec (i : Instr) (s : State) : Host.Outcome State Fault Refusal :=
  match i with
  | .init => Sys2Proof.Machine.execInit s
  | .encrypt => Sys2Proof.Machine.execEncrypt s
  | .decrypt => Sys2Proof.Machine.execDecrypt s
  | .cbcmac len => Sys2Proof.Machine.execCbcmac len s
  | .khash len => Sys2Proof.Machine.execKhash len s
  | .fenc len => Sys2Proof.Machine.execFenc len s
  | .fdec len => Sys2Proof.Machine.execFdec len s
  | .send len => Sys2Proof.Machine.execSend len s
  | .procrx => Sys2Proof.Machine.execProcrx s

end Sys2Proof.Machine
end

