-- ==== Sys2Proof/Machine/Flags.lean ====
section
/-! DEFINITION. The status bits: STATUS, IRQ_STATUS and the interrupt line. The engine has no condition codes and no
arithmetic flags (10_state.md R50), so these are all the flags there are. -/

namespace Sys2Proof.Machine

/-- The 8-bit value of a status code (60_exceptions.md R250). -/
def Status.code : Status → BitVec 8
  | .ok => 0x00
  | .tooShort => 0x01
  | .badSync => 0x02
  | .badLength => 0x03
  | .badAuth => 0x04
  | .replay => 0x05
  | .busy => 0x06
  | .transportFailure => 0x07
  | .tooLarge => 0x08
  | .invalidArgument => 0x09
  | .notReady => 0x0A
  | .illegalCommand => 0x0B

/-- The 2-bit value of RX_STATE (10_state.md R47). -/
def RxState.code : RxState → BitVec 2
  | .idle => 0
  | .receiving => 1
  | .frameReady => 2
  | .halted => 3

/-- RX_COMPLETE (10_state.md R24) and RX_READY (R42): both read (RX_STATE = RX_FRAME_READY). -/
def State.rxReady (s : State) : Bool := s.rxState = .frameReady

/-- RX_HALTED (10_state.md R24) and RX_HALT (R42): both read (RX_STATE = RX_HALTED). -/
def State.rxHalt (s : State) : Bool := s.rxState = .halted

/-- The word STATUS reads as (10_state.md R24): CODE, INIT_DONE, RX_STATE, TX_BUSY, RX_COMPLETE, RX_HALTED. -/
def State.statusWord (s : State) : Word :=
  s.statusCode.code.setWidth 32
    ||| (BitVec.ofBool s.initDone).setWidth 32 <<< 8
    ||| s.rxState.code.setWidth 32 <<< 9
    ||| (BitVec.ofBool s.txBusy).setWidth 32 <<< 11
    ||| (BitVec.ofBool s.rxReady).setWidth 32 <<< 12
    ||| (BitVec.ofBool s.rxHalt).setWidth 32 <<< 13

/-- The three bits of IRQ_STATUS (10_state.md R42): bit 0 RX_READY, bit 1 TX_DONE, bit 2 RX_HALT. -/
def State.irqStatus (s : State) : BitVec 3 :=
  (BitVec.ofBool s.rxReady).setWidth 3
    ||| (BitVec.ofBool s.txDone).setWidth 3 <<< 1
    ||| (BitVec.ofBool s.rxHalt).setWidth 3 <<< 2

/-- The interrupt output `irq`: high while some source is both pending and enabled (10_state.md R43,
60_exceptions.md R260). It is a level, a function of the state alone. -/
def State.irq (s : State) : Bool := s.irqStatus &&& s.irqEnable != 0

end Sys2Proof.Machine
end

