-- ==== Sys2Proof/Machine/Registers.lean ====
section
/-! DEFINITION. The register window: the map of 10_state.md R22, what an access reaches (20_memory.md R60-R63), and what
reading and writing a register does (10_state.md R23-R45, 20_memory.md R64-R66). -/

namespace Sys2Proof.Machine

/-- The host-visible registers (10_state.md R22). -/
inductive Reg where
  | cmd | status | arg0 | arg1 | res0 | res1 | resLen | lastError
  | key0 | key1 | key2 | key3 | profile | sync | maxPayload
  | txCounter | lastAccepted | packetsSent | packetsReceived | errorsDetected | rxLen
  | irqStatus | irqEnable | bufcap
  deriving DecidableEq, Repr

/-- The register map (10_state.md R22): the byte offset of each register. -/
def regMap : List (Nat × Reg) :=
  [(0x000, .cmd), (0x004, .status), (0x008, .arg0), (0x00C, .arg1), (0x010, .res0), (0x014, .res1),
   (0x018, .resLen), (0x01C, .lastError), (0x020, .key0), (0x024, .key1), (0x028, .key2), (0x02C, .key3),
   (0x030, .profile), (0x034, .sync), (0x038, .maxPayload), (0x040, .txCounter), (0x044, .lastAccepted),
   (0x048, .packetsSent), (0x04C, .packetsReceived), (0x050, .errorsDetected), (0x054, .rxLen),
   (0x058, .irqStatus), (0x05C, .irqEnable), (0x060, .bufcap)]

/-- The register at an offset, if there is one. -/
def regAt (off : Nat) : Option Reg := (regMap.find? fun row => row.1 == off).map (·.2)

/-- The offset of CMD, the register whose write runs a command. -/
def cmdOffset : Offset := 0x000

/-- The offset of the DATA window (10_state.md R22). -/
def dataBase : Nat := 0x100

/-- What a host access reaches. -/
inductive Target where
  /-- A register. -/
  | reg (r : Reg)
  /-- The word DATA[i..i+4) of the DATA window (20_memory.md R65). -/
  | data (i : Nat)
  deriving DecidableEq, Repr

/-- What an access of `width` bits at an offset reaches; `none` is a bus error (20_memory.md R61-R63). -/
def accessTarget (bufCap width : Nat) (off : Offset) : Option Target :=
  if width ≠ 32 ∨ off.toNat % 4 ≠ 0 then none
  else match regAt off.toNat with
    | some r => some (.reg r)
    | none =>
      if dataBase ≤ off.toNat ∧ off.toNat < dataBase + bufCap then some (.data (off.toNat - dataBase)) else none

/-- The word that reading a register returns. A write-only register reads 0, and so do reserved bits
(10_state.md R22-R45, 20_memory.md R64). -/
def readReg (s : State) : Reg → Word
  | .cmd => 0
  | .status => s.statusWord
  | .arg0 => s.arg0
  | .arg1 => s.arg1
  | .res0 => s.res0
  | .res1 => s.res1
  | .resLen => s.resLen.setWidth 32
  | .lastError => s.lastError.code.setWidth 32
  | .key0 => 0
  | .key1 => 0
  | .key2 => 0
  | .key3 => 0
  | .profile => s.profile.setWidth 32
  | .sync => s.sync
  | .maxPayload => s.maxPayload.setWidth 32
  | .txCounter => s.txCounter
  | .lastAccepted => s.lastAccepted
  | .packetsSent => s.packetsSent
  | .packetsReceived => s.packetsReceived
  | .errorsDetected => s.errorsDetected
  | .rxLen => s.rxLen.setWidth 32
  | .irqStatus => s.irqStatus.setWidth 32
  | .irqEnable => s.irqEnable.setWidth 32
  | .bufcap => BitVec.ofNat 32 s.bufCap

/-- The state after a host write of `v` to a register that is not CMD (`runCommand` is the write to CMD). A read-only
register ignores it, a configuration register ignores it once INIT_DONE = 1, a reserved bit ignores it, and IRQ_STATUS
clears TX_DONE where bit 1 is 1 (10_state.md R22-R45, 20_memory.md R64). -/
def writeReg (s : State) (r : Reg) (v : Word) : State :=
  match r with
  | .arg0 => { s with arg0 := v }
  | .arg1 => { s with arg1 := v }
  | .key0 => if s.initDone then s else { s with key0 := v }
  | .key1 => if s.initDone then s else { s with key1 := v }
  | .key2 => if s.initDone then s else { s with key2 := v }
  | .key3 => if s.initDone then s else { s with key3 := v }
  | .profile => if s.initDone then s else { s with profile := v.setWidth 7 }
  | .sync => if s.initDone then s else { s with sync := v }
  | .maxPayload => if s.initDone then s else { s with maxPayload := v.setWidth 16 }
  | .irqStatus => if v.getLsbD 1 then { s with txDone := false } else s
  | .irqEnable => { s with irqEnable := v.setWidth 3 }
  | .cmd | .status | .res0 | .res1 | .resLen | .lastError | .txCounter | .lastAccepted | .packetsSent
  | .packetsReceived | .errorsDetected | .rxLen | .bufcap => s

/-- The word of the DATA window whose first byte is DATA[i] (20_memory.md R65). -/
def readDataWord (s : State) (i : Nat) : Word := le32 (s.data.readBytes i 4)

/-- Writes that word (20_memory.md R65). -/
def writeDataWord (s : State) (i : Nat) (v : Word) : State :=
  { s with data := s.data.writeBytes i (serLE 4 v.toNat) }

/-- The word that an access which reaches a target returns. -/
def readTarget (s : State) : Target → Word
  | .reg r => readReg s r
  | .data i => readDataWord s i

/-- A host read (20_memory.md R63-R66): the engine's state does not change; the word goes to the host. -/
def hostRead (width : Nat) (off : Offset) (s : State) : Result :=
  match accessTarget s.bufCap width off with
  | none => .fault (.busError off)
  | some t => .next { s with env := { s.env with readData := some (readTarget s t) } }

end Sys2Proof.Machine
end

