-- ==== Sys2Proof/Machine/Events.lean ====
section
/-! DEFINITION. What each event does: a host access, a command word written to CMD, a transport event, a reset
(00_scope.md R11, 20_memory.md R70, 30_encoding.md R96). -/

namespace Sys2Proof.Machine

/-- A host write of `v` to CMD: dispatch, then the command (30_encoding.md R94, R96). An illegal word changes only
STATUS.CODE; the test of INIT_DONE is part of each command's meaning. -/
def runCommand (v : Word) (s : State) : Result :=
  match decode v with
  | .ok i => exec i s
  | .error _ => .next (s.finish .illegalCommand)

/-- A host write (20_memory.md R63-R66, 10_state.md R23). -/
def hostWrite (width : Nat) (off : Offset) (v : Word) (s : State) : Result :=
  match accessTarget s.bufCap width off with
  | none => .fault (.busError off)
  | some (.reg .cmd) => runCommand v s
  | some (.reg r) => .next (writeReg s r v)
  | some (.data i) => .next (writeDataWord s i v)

/-- One event as one atomic step of the engine (20_memory.md R70). -/
def runEvent (e : Event) (s : State) : Result :=
  match e with
  | .hostRead width off => hostRead width off s
  | .hostWrite width off v => hostWrite width off v s
  | .rxByte i b => .next (rxByte i b s)
  | .boundary count => .next (boundary count s)
  | .sendComplete => .next (sendComplete s)
  | .reset d => .next (resetEngine d s)

end Sys2Proof.Machine
end

