-- ==== Sys2Proof/Machine/Step.lean ====
section
/-! DEFINITION. One step of the machine: the next event of the total order, run as one atomic step (20_memory.md R70). -/

namespace Sys2Proof.Machine

/-- One step. With nothing pending the engine is idle and takes no step of its own (00_scope.md R11,
60_exceptions.md R267): the state stays as it is (notes/assumptions/9.md). A bus error is the
host's fault at that access: the step marks it, and the engine stays usable (20_memory.md R63). -/
def step (s : State) : Host.Outcome State Fault Refusal :=
  match s.nextEvent with
  | none => .next s
  | some (e, t) => settle t (runEvent e t)

/-- `s` with a 32-bit host write of the word to CMD as the next event: the engine fetches no instructions
(20_memory.md R68), and a CMD write is what runs a command (notes/assumptions/8.md). -/
def State.withFetchWord (s : State) (nbits w : Nat) : State :=
  s.pushEvent (.hostWrite 32 cmdOffset (tableWord nbits w))

end Sys2Proof.Machine
end

