-- ==== Sys2Proof/Safety.lean ====
section
/-! DEFINITION. What a well-kept state of the engine is, in the terms the statements use. -/

namespace Sys2Proof.Machine

/-- A buffer of `cap` bytes in its canonical form (10_state.md R49). -/
structure BufferOk (cap : Nat) (m : Memory) : Prop where
  canonical : m.wf
  inside : m.within cap

/-- The codes that LAST_ERROR holds: those of a frame rejected by PROCESS_RX or of a runt, and OK before the first
(10_state.md R28). -/
def Status.isReceiveError : Status → Bool
  | .ok | .tooShort | .badSync | .badLength | .badAuth | .replay => true
  | .busy | .transportFailure | .tooLarge | .invalidArgument | .notReady | .illegalCommand => false

/-- What the channel has before INIT: neither direction runs, and every counter and result still has its reset value
(45_channel.md R202, 70_reset_and_hazards.md R282). -/
structure Unopened (s : State) : Prop where
  rxIdle : s.rxState = .idle
  txIdle : s.txBusy = false
  noTxDone : s.txDone = false
  txCounter : s.txCounter = 0
  lastAccepted : s.lastAccepted = 0
  packetsSent : s.packetsSent = 0
  packetsReceived : s.packetsReceived = 0
  errorsDetected : s.errorsDetected = 0
  lastError : s.lastError = .ok
  rxLen : s.rxLen = 0
  res0 : s.res0 = 0
  res1 : s.res1 = 0
  resLen : s.resLen = 0

/-- What the channel has from a successful INIT on: a legal profile, the schedule of the stored key, and a receive
direction that has left RX_IDLE (45_channel.md R202, R203, 10_state.md R31, R44). -/
structure Opened (s : State) : Prop where
  legal : profileLegal s.codec s.bufCap = true
  schedule : s.rk = keySchedule s.key0 s.key1 s.key2 s.key3
  armed : s.rxState ≠ .idle

/-- The invariant of the engine: every step keeps it, and it holds right after reset. What a step does in a state that
breaks it is incidental (notes/assumptions/14.md). -/
structure State.Inv (s : State) : Prop where
  cap : Config.LegalBufCap s.bufCap
  data : BufferOk s.bufCap s.data
  rxBuf : BufferOk s.bufCap s.rxBuf
  txBuf : BufferOk s.bufCap s.txBuf
  resLen : s.resLen.toNat ≤ s.bufCap
  rxLen : s.rxLen.toNat ≤ s.bufCap
  ready : s.rxState = .frameReady → s.codec.minFrame ≤ s.rxLen.toNat
  lastError : s.lastError.isReceiveError = true
  unopened : s.initDone = false → Unopened s
  opened : s.initDone = true → Opened s

/-- The events of the transport (45_channel.md R230). -/
def Event.isTransport : Event → Bool
  | .rxByte _ _ => true
  | .boundary _ => true
  | .sendComplete => true
  | _ => false

/-- The reset event (70_reset_and_hazards.md R280). -/
def Event.isReset : Event → Bool
  | .reset _ => true
  | _ => false

/-- A 32-bit host write to CMD, the one access that runs a command (10_state.md R23). -/
def Event.isCommand : Event → Bool
  | .hostWrite width off _ => width == 32 && off == cmdOffset
  | _ => false

/-- The command that an event runs, if it is a CMD write of a legal word (30_encoding.md R96). -/
def Event.commandRun : Event → Option Instr
  | .hostWrite width off v =>
    if width = 32 ∧ off = cmdOffset then
      match decode v with
      | .ok i => some i
      | .error _ => none
    else none
  | _ => none

/-- The next event is a reset. -/
def State.resetNext (s : State) : Bool :=
  match s.env.pending with
  | [] => false
  | e :: _ => e.isReset

/-- `s` with the next event taken off: the state in which that event happens. -/
def State.afterPop (s : State) : State := { s with env := { s.env with pending := s.env.pending.tail } }

/-- An illegal command word (30_encoding.md R94). -/
abbrev illegalWord (v : Word) : Prop :=
  v.extractLsb' 8 8 ≠ 0 ∨ (v.extractLsb' 0 8).toNat = 0 ∨ 0x0A ≤ (v.extractLsb' 0 8).toNat

/-- A mapped offset of the register window (20_memory.md R62). -/
abbrev mappedOffset (bufCap off : Nat) : Prop :=
  off % 4 = 0 ∧ (off ≤ 0x01C ∨ (0x020 ≤ off ∧ off ≤ 0x038) ∨ (0x040 ≤ off ∧ off ≤ 0x060)
    ∨ (0x100 ≤ off ∧ off < 0x100 + bufCap))

end Sys2Proof.Machine
end

