-- ==== Sys2Proof/Certificates/Slice0/Obligations.lean ====
section
/-! DEFINITION. The statements about the engine, one `def Obligations.<Name> : Prop` each. -/

open Sys2Proof Sys2Proof.Machine

/-! ### The command word (30_encoding.md) -/

/-- Decoding the word of a well-formed command gives the command back (R91, R93). -/
def Obligations.DecodeEncodeAgree : Prop :=
  ∀ i : Instr, i.wellFormed = true → decode (encode i) = .ok i

/-- Nothing that a legal word says is lost: the command it decodes to is well-formed, its own word has the same OP and
RSVD, and where the command takes LEN its own word is the word itself (R91, R92). -/
def Obligations.DecodedWordIsReencoded : Prop :=
  ∀ (v : Word) (i : Instr), decode v = .ok i →
    i.wellFormed = true ∧ (encode i).extractLsb' 0 16 = v.extractLsb' 0 16
      ∧ (i ≠ .init → i ≠ .encrypt → i ≠ .decrypt → i ≠ .procrx → encode i = v)

/-- R95: a word is either one of the nine commands or illegal, and the LEN bits of a command that ignores LEN neither make
a word illegal nor have an effect. -/
def Obligations.EveryWordIsACommandOrIllegal : Prop :=
  (∀ v : Word, (∃ i, decode v = .ok i) ↔ ¬ illegalWord v)
    ∧ ∀ v w : Word, v.extractLsb' 0 16 = w.extractLsb' 0 16 →
        (v.extractLsb' 0 8 = 0x01 ∨ v.extractLsb' 0 8 = 0x02 ∨ v.extractLsb' 0 8 = 0x03 ∨ v.extractLsb' 0 8 = 0x09) →
        decode v = decode w ∧ ∀ s : State, runCommand v s = runCommand w s

/-- R94: an illegal word does finish(ILLEGAL_COMMAND), code 0x0B, and changes no other state. -/
def Obligations.IllegalWordChangesOnlyStatus : Prop :=
  Status.illegalCommand.code = 0x0B
    ∧ ∀ (s : State) (v : Word) (rest : List Event), s.env.pending = .hostWrite 32 cmdOffset v :: rest →
        (v.extractLsb' 8 8 ≠ 0 ∨ v.extractLsb' 0 8 = 0 ∨ 0x0A ≤ (v.extractLsb' 0 8).toNat) →
        step s = .next { s with
          statusCode := .illegalCommand
          env := { s.env with pending := rest } }

/-- R96: dispatch tests the word first, then INIT_DONE, and then runs the selected command. -/
def Obligations.DispatchOrder : Prop :=
  ∀ (s : State) (v : Word),
    (illegalWord v → runCommand v s = .next { s with statusCode := .illegalCommand })
    ∧ (¬ illegalWord v → v.extractLsb' 0 8 ≠ 0x01 → s.initDone = false →
        runCommand v s = .next { s with statusCode := .notReady })
    ∧ (¬ illegalWord v → v.extractLsb' 0 8 = 0x01 ∨ s.initDone = true →
        ∃ i, decode v = .ok i ∧ (encode i).extractLsb' 0 8 = v.extractLsb' 0 8 ∧ runCommand v s = exec i s)

/-- Words of the spec's examples decode to the commands they stand for (R98). -/
def Obligations.SpecWordsDecode : Prop :=
  decode 0x00000001 = .ok .init ∧ decode 0xFFFF0002 = .ok .encrypt ∧ decode 0x00000003 = .ok .decrypt
    ∧ decode 0x00050004 = .ok (.cbcmac 5) ∧ decode 0x000F0005 = .ok (.khash 15) ∧ decode 0x00050006 = .ok (.fenc 5)
    ∧ decode 0x00140007 = .ok (.fdec 20) ∧ decode 0x00410008 = .ok (.send 65) ∧ decode 0x00000009 = .ok .procrx

/-! ### Steps -/

/-- A host write to CMD of a word that decodes to a command runs exactly that command, with the write taken off the events
to come; nothing else happens around it. -/
def Obligations.StepRunsDecodedCommand : Prop :=
  ∀ (s : State) (v : Word) (rest : List Event) (i : Instr),
    s.env.pending = .hostWrite 32 cmdOffset v :: rest → decode v = .ok i → i.wellFormed = true →
    step s = exec i { s with env := { s.env with pending := rest } }

/-- The events happen one at a time in their order: the step's next state is the one the event gives, and where the event
faults the host with a bus error, the state the event found, with the mark on the host's run and no data returned. With no
event to come the step leaves the state as it is. The list of events to come, the mark and the step that changes nothing are
the model's choice (notes/assumptions/3.md, 7.md, 9.md) for the total order of R70, a host that is marked as faulted and an
engine that takes no step of its own. -/
def Obligations.StepTakesEventsInOrder : Prop :=
  (∀ s : State, s.env.pending = [] → step s = .next s)
    ∧ ∀ (s s' : State) (e : Event) (rest : List Event), s.env.pending = e :: rest →
        s' = { s with env := { s.env with pending := rest } } →
        (∀ t : State, runEvent e s' = .next t → step s = .next t)
        ∧ ∀ off : Offset, runEvent e s' = .fault (.busError off) →
            step s = .next { s' with env := { s'.env with
              readData := none
              hostFaults := off :: s'.env.hostFaults } }

/-- Every command completes in every state, and what no command writes it leaves alone: the operand and configuration
registers, IRQ_ENABLE, TX_DONE, the receive buffer and its length, the capacity, the events to come and the host's marks. -/
def Obligations.CommandsCompleteAndKeepOperands : Prop :=
  ∀ (i : Instr) (s : State), ∃ t, exec i s = .next t
    ∧ t.arg0 = s.arg0 ∧ t.arg1 = s.arg1
    ∧ t.key0 = s.key0 ∧ t.key1 = s.key1 ∧ t.key2 = s.key2 ∧ t.key3 = s.key3
    ∧ t.profile = s.profile ∧ t.sync = s.sync ∧ t.maxPayload = s.maxPayload
    ∧ t.irqEnable = s.irqEnable ∧ t.txDone = s.txDone
    ∧ t.rxBuf = s.rxBuf ∧ t.rxLen = s.rxLen
    ∧ t.bufCap = s.bufCap ∧ t.env.pending = s.env.pending ∧ t.env.readData = s.env.readData
    ∧ t.env.hostFaults = s.env.hostFaults

/-- No step but a CMD write and a reset changes STATUS.CODE (R252). -/
def Obligations.OnlyCommandsWriteStatusCode : Prop :=
  ∀ s t : State, step s = .next t → t.statusCode ≠ s.statusCode →
    ∃ e rest, s.env.pending = e :: rest ∧ (e.isCommand = true ∨ e.isReset = true)

/-! ### The block cipher (40_cipher.md) -/

/-- R117: each direction of the cipher undoes the other, under every key and for every block. -/
def Obligations.CipherRoundTrip : Prop :=
  ∀ (k0 k1 k2 k3 : Word) (b : Block),
    decrypt (keySchedule k0 k1 k2 k3) (encrypt (keySchedule k0 k1 k2 k3) b) = b
      ∧ encrypt (keySchedule k0 k1 k2 k3) (decrypt (keySchedule k0 k1 k2 k3) b) = b

/-- R115, R116: the blocks between the rounds. Encrypt goes from x 0 to x 27 with RK[0], …, RK[26], each round as R112 has
it; Decrypt comes back from y 27 to y 0 with RK[26], …, RK[0], each round as R113 has it. -/
def Obligations.CipherRunsItsRoundsInOrder : Prop :=
  ∀ (rk : KeySchedule) (b : Block),
    (∃ x : Nat → Block, x 0 = b ∧ encrypt rk b = x 27
      ∧ ∀ (i : Nat) (hi : i < 27),
          (x (i + 1)).w0 = ((x i).w0.rotateRight 8 + (x i).w1) ^^^ rk[i]
          ∧ (x (i + 1)).w1 = (x i).w1.rotateLeft 3 ^^^ (x (i + 1)).w0)
    ∧ ∃ y : Nat → Block, y 27 = b ∧ decrypt rk b = y 0
      ∧ ∀ (i : Nat) (hi : i < 27),
          (y i).w1 = ((y (i + 1)).w1 ^^^ (y (i + 1)).w0).rotateRight 3
          ∧ (y i).w0 = (((y (i + 1)).w0 ^^^ rk[i]) - (y i).w1).rotateLeft 8

/-- R114: the recurrence of the key schedule. -/
def Obligations.KeyScheduleRecurrence : Prop :=
  ∀ k0 k1 k2 k3 : Word, ∃ k l : Nat → Word,
    k 0 = k0 ∧ l 0 = k1 ∧ l 1 = k2 ∧ l 2 = k3
      ∧ (∀ i < 26, l (i + 3) = (k i + (l i).rotateRight 8) ^^^ BitVec.ofNat 32 i
          ∧ k (i + 1) = (k i).rotateLeft 3 ^^^ l (i + 3))
      ∧ ∀ (i : Nat) (hi : i < 27), (keySchedule k0 k1 k2 k3)[i] = k i

/-- ENCRYPT and DECRYPT complete once INIT is done: the block (ARG0, ARG1) goes through the cipher into (RES0, RES1), the
code is OK, and nothing else changes (R118, R119). -/
def Obligations.CipherCommandsWriteTheirResult : Prop :=
  ∀ s : State, s.initDone = true →
    exec .encrypt s = .next { s with
      res0 := (encrypt s.rk ⟨s.arg0, s.arg1⟩).w0
      res1 := (encrypt s.rk ⟨s.arg0, s.arg1⟩).w1
      statusCode := .ok }
    ∧ exec .decrypt s = .next { s with
      res0 := (decrypt s.rk ⟨s.arg0, s.arg1⟩).w0
      res1 := (decrypt s.rk ⟨s.arg0, s.arg1⟩).w1
      statusCode := .ok }

/-! ### The keyed hash (41_keyed_hash.md) -/

/-- The keyed hash word by word (R131-R135): the four constants; SipRound with its rotations; a message word goes into v3
before two SipRounds and into v0 after them; 0xff goes into v2 before the four last SipRounds. The hash takes the j-th whole
word from bytes 8j to 8j+7, for j from 0 up, then the word whose low bytes are the last n mod 8 bytes and whose top byte is
n mod 256, then finishes, and is the exclusive-or of the four words. -/
def Obligations.HashTakesWordsByIndex : Prop :=
  (∀ k0 k1 : DWord, hashInit k0 k1 =
    ⟨k0 ^^^ 0x736f6d6570736575, k1 ^^^ 0x646f72616e646f6d, k0 ^^^ 0x6c7967656e657261, k1 ^^^ 0x7465646279746573⟩)
  ∧ (∀ (s : HashState) (a0 a1 a2 a3 : DWord),
      a0 = s.v0 + s.v1 → a1 = s.v1.rotateLeft 13 ^^^ a0 → a2 = s.v2 + s.v3 → a3 = s.v3.rotateLeft 16 ^^^ a2 →
      (sipRound s).v0 = a0.rotateLeft 32 + a3
      ∧ (sipRound s).v1 = a1.rotateLeft 17 ^^^ (a2 + a1)
      ∧ (sipRound s).v2 = (a2 + a1).rotateLeft 32
      ∧ (sipRound s).v3 = a3.rotateLeft 21 ^^^ (a0.rotateLeft 32 + a3))
  ∧ (∀ (s t : HashState) (m : DWord), t = sipRound (sipRound ⟨s.v0, s.v1, s.v2, s.v3 ^^^ m⟩) →
      hashWord s m = ⟨t.v0 ^^^ m, t.v1, t.v2, t.v3⟩)
  ∧ (∀ s : HashState, hashFinish s = sipRound (sipRound (sipRound (sipRound ⟨s.v0, s.v1, s.v2 ^^^ 0xff, s.v3⟩))))
  ∧ ∀ (k0 k1 : DWord) (d : List Byte) (a f : HashState),
      a = (List.range (d.length / 8)).foldl (fun st j => hashWord st (le64 (slice d (8 * j) 8))) (hashInit k0 k1) →
      f = hashFinish (hashWord a (BitVec.ofNat 64
        (d.length % 256 * 2 ^ 56 + deserLE (slice d (8 * (d.length / 8)) (d.length % 8))))) →
      keyedHash k0 k1 d = f.v0 ^^^ f.v1 ^^^ f.v2 ^^^ f.v3

/-- KEYED_HASH completes once INIT is done: the hash of DATA[0..len) under k0 = (KEY1, KEY0) and k1 = (KEY3, KEY2) goes to
RES0 (low half) and RES1 (high half); a length above BUF_CAP gives INVALID_ARGUMENT; nothing else changes (R130, R137). -/
def Obligations.KhashWritesTheTag : Prop :=
  ∀ (len : Nat) (s : State), s.initDone = true →
    (len ≤ s.bufCap → ∃ h : DWord, h = keyedHash (s.key1 ++ s.key0) (s.key3 ++ s.key2) (s.data.readBytes 0 len)
      ∧ exec (.khash len) s = .next { s with
          res0 := h.setWidth 32
          res1 := (h >>> 32).setWidth 32
          statusCode := .ok })
    ∧ (s.bufCap < len → exec (.khash len) s = .next { s with statusCode := .invalidArgument })

/-! ### The MAC over the cipher (42_cbc_mac.md) -/

/-- Padding: 0x80 and the fewest zeros for an input that is not aligned or is empty, nothing for any other; the padded
input is whole blocks, at least one (R145). -/
def Obligations.MacPaddingMakesWholeBlocks : Prop :=
  ∀ d : List Byte,
    (d.length % 8 = 0 → d ≠ [] → macPad d = d)
    ∧ (d.length % 8 ≠ 0 ∨ d = [] → ∃ z : Nat, z < 8 ∧ macPad d = d ++ 0x80 :: List.replicate z 0)
    ∧ (macPad d).length = 8 * (macBlocks d).length ∧ macBlocks d ≠ []

/-- The chain by block index: block 0 is encrypted directly, block j is XORed with the output of block j-1 first, and the
last output is the tag, written as its two words (R146, R147, R148). -/
def Obligations.MacChainsByBlockIndex : Prop :=
  ∀ (rk : KeySchedule) (d : List Byte), ∃ (N : Nat) (P C : Nat → Block),
    8 * (N + 1) = (macPad d).length
      ∧ (∀ j ≤ N, P j = ⟨le32 (slice (macPad d) (8 * j) 4), le32 (slice (macPad d) (8 * j + 4) 4)⟩)
      ∧ C 0 = encrypt rk (P 0)
      ∧ (∀ j, 1 ≤ j → j ≤ N → C j = encrypt rk ⟨(P j).w0 ^^^ (C (j - 1)).w0, (P j).w1 ^^^ (C (j - 1)).w1⟩)
      ∧ cbcMac rk d = serLE 4 (C N).w0.toNat ++ serLE 4 (C N).w1.toNat

/-- The collision that the padding rule implies, and the hardware keeps: an input and its own padded form have the same tag
(R149). -/
def Obligations.PaddedInputHasTheSameTag : Prop :=
  ∀ (rk : KeySchedule) (d : List Byte), cbcMac rk (macPad d) = cbcMac rk d

/-- CBC_MAC completes once INIT is done: the two words of the tag of DATA[0..len) go to RES0 and RES1; a length above
BUF_CAP gives INVALID_ARGUMENT; nothing else changes (R149). -/
def Obligations.CbcmacWritesTheTag : Prop :=
  ∀ (len : Nat) (s : State), s.initDone = true →
    (len ≤ s.bufCap → ∃ r0 r1 : Word,
      serLE 4 r0.toNat ++ serLE 4 r1.toNat = cbcMac s.rk (s.data.readBytes 0 len)
      ∧ exec (.cbcmac len) s = .next { s with
          res0 := r0
          res1 := r1
          statusCode := .ok })
    ∧ (s.bufCap < len → exec (.cbcmac len) s = .next { s with statusCode := .invalidArgument })

/-! ### The frame codec (43_frame_codec.md) -/

/-- The bytes of a serialized value in either order, and reading any bytes back (00_scope.md R9). -/
def Obligations.SerializationByByte : Prop :=
  (∀ n v i : Nat, i < n →
    (ser n v .le)[i]? = some (BitVec.ofNat 8 (v / 256 ^ i))
      ∧ (ser n v .be)[i]? = some (BitVec.ofNat 8 (v / 256 ^ (n - 1 - i))))
    ∧ ∀ (bs : List Byte) (o : Order), ser bs.length (deser bs o) o = bs

/-- R162: byte j of a frame, for 0 ≤ j < S, is SYNC[8j+7:8j]; and of a received range that is long enough, FrameCheck
says BAD_SYNC exactly when one of its first S bytes is not that byte. -/
def Obligations.SyncMarkerComparedExactly : Prop :=
  ∀ c : Codec,
    (∀ (ctr : Word) (pl : List Byte), ∀ j < c.syncLen,
      (c.frameEncode ctr pl)[j]? = some (c.sync.extractLsb' (8 * j) 8))
    ∧ ∀ d : List Byte, c.minFrame ≤ d.length →
        (c.frameCheck d = .bad .badSync ↔ ∃ j < c.syncLen, d[j]? ≠ some (c.sync.extractLsb' (8 * j) 8))

/-- Where each field of an encoded frame stands, that the tag is over everything before it, the ciphertext payload
included, and which function of those bytes PROFILE.AUTH makes it (R160, R163, R164, R167, R169). -/
def Obligations.FrameLayout : Prop :=
  ∀ (c : Codec) (ctr : Word) (pl f : List Byte), f = c.frameEncode ctr pl →
    f.length = c.headerLen + pl.length + c.tagLen
      ∧ slice f 0 c.syncLen = c.syncBytes
      ∧ slice f c.syncLen 4 = ser 4 ctr.toNat c.order
      ∧ slice f (c.syncLen + 4) c.lenBytes = ser c.lenBytes pl.length c.order
      ∧ slice f c.headerLen pl.length = c.encPayload ctr pl
      ∧ ∀ d : List Byte, d = f.take (c.headerLen + pl.length) →
          slice f (c.headerLen + pl.length) c.tagLen =
            if c.profile.getLsbD 1 then
              if c.profile.getLsbD 0 then ser 4 (Config.checksum32 d).toNat c.order
              else ser 2 (Config.checksum16 d).toNat c.order
            else
              if c.profile.getLsbD 0 then serLE 8 (keyedHash (c.key1 ++ c.key0) (c.key3 ++ c.key2) d).toNat
              else cbcMac c.rk d

/-- R165: with ENC = 0 the payload is unchanged; with ENC = 1 it keeps its length, each whole block is encrypted on its own,
and the bytes after the last whole block are XORed with the first bytes of Encrypt(RK, (ctr, n)). -/
def Obligations.PayloadEncryptionByBlock : Prop :=
  ∀ (c : Codec) (ctr : Word) (pl : List Byte),
    (c.enc = false → c.encPayload ctr pl = pl)
    ∧ (c.enc = true →
        (c.encPayload ctr pl).length = pl.length
        ∧ (∀ j < pl.length / 8, slice (c.encPayload ctr pl) (8 * j) 8
            = (encrypt c.rk ⟨le32 (slice pl (8 * j) 4), le32 (slice pl (8 * j + 4) 4)⟩).toBytes)
        ∧ ∀ i, 8 * (pl.length / 8) ≤ i → i < pl.length →
            (c.encPayload ctr pl).getD i 0
              = pl.getD i 0 ^^^ (encrypt c.rk ⟨ctr, BitVec.ofNat 32 pl.length⟩).toBytes.getD (i - 8 * (pl.length / 8)) 0)

/-- R174: an encoded frame decodes to its counter and payload, under every legal profile and for every payload of at most
MAX bytes; bytes after the trailer do not matter (R171). -/
def Obligations.FrameRoundTrip : Prop :=
  ∀ (c : Codec) (cap : Nat) (ctr : Word) (pl rest : List Byte),
    profileLegal c cap = true → pl.length ≤ c.maxLen →
    c.frameDecode (c.frameEncode ctr pl ++ rest) = .frame ctr pl

/-- An accepted range stays accepted, with the same counter and length, whatever bytes follow it, and after everything
behind the trailer is cut away: the codec reads nothing beyond the declared extent (R171). -/
def Obligations.OnlyTheDeclaredExtentMatters : Prop :=
  ∀ (c : Codec) (d rest : List Byte) (ctr : Word) (n : Nat), c.frameCheck d = .checked ctr n →
    c.frameCheck (d ++ rest) = .checked ctr n ∧ c.frameCheck (d.take (c.headerLen + n + c.tagLen)) = .checked ctr n

/-- The order of FrameCheck's tests: the first that fails decides (R170). -/
def Obligations.FrameCheckOrder : Prop :=
  ∀ (c : Codec) (d : List Byte) (n : Nat), n = deser (slice d (c.syncLen + 4) c.lenBytes) c.order →
    (c.frameCheck d = .bad .tooShort ↔ d.length < c.minFrame)
    ∧ (c.frameCheck d = .bad .badSync ↔ c.minFrame ≤ d.length ∧ d.take c.syncLen ≠ c.syncBytes)
    ∧ (c.frameCheck d = .bad .badLength ↔ c.minFrame ≤ d.length ∧ d.take c.syncLen = c.syncBytes
        ∧ (c.maxLen < n ∨ d.length < c.headerLen + n + c.tagLen))
    ∧ (c.frameCheck d = .bad .badAuth ↔ c.minFrame ≤ d.length ∧ d.take c.syncLen = c.syncBytes
        ∧ n ≤ c.maxLen ∧ c.headerLen + n + c.tagLen ≤ d.length
        ∧ slice d (c.headerLen + n) c.tagLen ≠ c.auth (d.take (c.headerLen + n)))
    ∧ ∀ (ctr : Word) (m : Nat), c.frameCheck d = .checked ctr m ↔ c.minFrame ≤ d.length ∧ d.take c.syncLen = c.syncBytes
        ∧ n ≤ c.maxLen ∧ c.headerLen + n + c.tagLen ≤ d.length
        ∧ slice d (c.headerLen + n) c.tagLen = c.auth (d.take (c.headerLen + n))
        ∧ m = n ∧ ctr = BitVec.ofNat 32 (deser (slice d c.syncLen 4) c.order)

/-- FRAME_ENCODE completes once INIT is done: the frame of ARG0 and DATA[0..len) goes to DATA from byte 0 up, RES0 is the
counter, RES_LEN the frame's length, and nothing else changes; a payload above MAX gives TOO_LARGE, with RES_LEN = 0 and
nothing else changed (R172). -/
def Obligations.FencWritesTheFrame : Prop :=
  ∀ (len : Nat) (s : State), s.initDone = true →
    (len ≤ s.codec.maxLen → s.data.wf → ∃ (t : State) (f : List Byte),
      f = s.codec.frameEncode s.arg0 (s.data.readBytes 0 len)
      ∧ exec (.fenc len) s = .next t
      ∧ t = { s with
          data := t.data
          res0 := s.arg0
          resLen := BitVec.ofNat 16 f.length
          statusCode := .ok }
      ∧ ∀ a, t.data.read a = if a < f.length then f.getD a 0 else s.data.read a)
    ∧ (s.codec.maxLen < len → exec (.fenc len) s = .next { s with
        resLen := 0
        statusCode := .tooLarge })

/-- FRAME_DECODE completes once INIT is done. A range that decodes gives its payload to DATA from byte 0 up, its counter to
RES0, its length to RES_LEN, and nothing else changes; a range that does not gives its code, RES_LEN = 0 and nothing else,
every byte of DATA as it was; so does a length above BUF_CAP, with INVALID_ARGUMENT (R173). -/
def Obligations.FdecWritesThePayload : Prop :=
  ∀ (len : Nat) (s : State), s.initDone = true →
    (∀ (ctr : Word) (pl : List Byte), len ≤ s.bufCap → s.data.wf →
      s.codec.frameDecode (s.data.readBytes 0 len) = .frame ctr pl → ∃ t : State,
        exec (.fdec len) s = .next t
        ∧ t = { s with
            data := t.data
            res0 := ctr
            resLen := BitVec.ofNat 16 pl.length
            statusCode := .ok }
        ∧ ∀ a, t.data.read a = if a < pl.length then pl.getD a 0 else s.data.read a)
    ∧ (∀ e : Status, len ≤ s.bufCap → s.codec.frameDecode (s.data.readBytes 0 len) = .bad e →
      exec (.fdec len) s = .next { s with
        resLen := 0
        statusCode := e })
    ∧ (s.bufCap < len → exec (.fdec len) s = .next { s with
        resLen := 0
        statusCode := .invalidArgument })

/-- In an initialized engine, FRAME_ENCODE of any legal payload and then FRAME_DECODE of what it wrote put the payload back
into DATA[0..len), with the counter in RES0, len in RES_LEN and the code OK (R172, R173, R174). -/
def Obligations.FdecUndoesFenc : Prop :=
  ∀ (s : State) (len : Nat), s.Inv → s.initDone = true → len ≤ s.codec.maxLen → ∃ t u : State,
    exec (.fenc len) s = .next t ∧ exec (.fdec t.resLen.toNat) t = .next u
      ∧ u.statusCode = .ok ∧ u.res0 = s.arg0 ∧ u.resLen.toNat = len
      ∧ u.data.readBytes 0 len = s.data.readBytes 0 len

/-! ### The channel (44_replay_guard.md, 45_channel.md) -/

/-- The quantities of a profile from the bits of PROFILE and from MAX_PAYLOAD: S, LW, H, T, ORDER, MAX, MIN_FRAME, MAX_FRAME
and ENC; their values under the reset profile; and which profiles are legal (R33, R161, R203). -/
def Obligations.ProfileQuantities : Prop :=
  ∀ c : Codec,
    c.syncLen = (c.profile >>> 5).toNat + 1
    ∧ c.lenBytes = (if c.profile.getLsbD 4 then 2 else 1)
    ∧ c.headerLen = c.syncLen + 4 + c.lenBytes
    ∧ c.tagLen = (if c.profile.getLsbD 1 = false then 8 else if c.profile.getLsbD 0 then 4 else 2)
    ∧ c.order = (if c.profile.getLsbD 3 then .be else .le)
    ∧ c.maxLen = c.maxPayload.toNat
    ∧ c.minFrame = c.headerLen + c.tagLen
    ∧ c.maxFrame = c.headerLen + c.maxLen + c.tagLen
    ∧ c.enc = c.profile.getLsbD 2
    ∧ (c.profile = 0x20 → c.maxPayload = 64 →
        c.syncLen = 2 ∧ c.lenBytes = 1 ∧ c.headerLen = 7 ∧ c.tagLen = 8 ∧ c.minFrame = 15 ∧ c.maxFrame = 79)
    ∧ ∀ cap : Nat, profileLegal c cap = true ↔
        ¬ (c.profile.getLsbD 4 = false ∧ 255 < c.maxPayload.toNat)
        ∧ ¬ (cap < c.headerLen + c.maxPayload.toNat + c.tagLen)

/-- INIT of an uninitialized engine with a legal profile completes: the key schedule, INIT_DONE, and one arm request whose
answer decides RX_STATE and the code; nothing else changes. An initialized engine or an illegal profile gives
INVALID_ARGUMENT and nothing else changes (R202, R204). -/
def Obligations.InitOpensTheChannel : Prop :=
  ∀ s : State,
    (s.initDone = false → profileLegal s.codec s.bufCap = true →
      exec .init s = .next { s with
        rk := keySchedule s.key0 s.key1 s.key2 s.key3
        initDone := true
        rxState := if s.nextArmAnswer then .receiving else .halted
        env := { s.env with
          armAnswers := s.env.armAnswers.tail
          requests := .arm s.nextArmAnswer :: s.env.requests }
        statusCode := if s.nextArmAnswer then .ok else .transportFailure })
    ∧ (s.initDone = true ∨ profileLegal s.codec s.bufCap = false →
      exec .init s = .next { s with statusCode := .invalidArgument })

/-- SEND completes once INIT is done. With a send outstanding: BUSY. With a payload above MAX: TOO_LARGE. Each of the two
writes RES_LEN = 0 and nothing else. Otherwise the counter advances by one, the frame with the new counter goes to TX_BUF
from byte 0 up, RES0 is the new counter, the transport is asked once, and its answer decides TX_BUSY, PACKETS_SENT, RES_LEN
and the code; nothing else changes (R205, R206). -/
def Obligations.SendHandsOverTheFrame : Prop :=
  ∀ (len : Nat) (s : State), s.initDone = true →
    (s.txBusy = true → exec (.send len) s = .next { s with
      resLen := 0
      statusCode := .busy })
    ∧ (s.txBusy = false → s.codec.maxLen < len → exec (.send len) s = .next { s with
      resLen := 0
      statusCode := .tooLarge })
    ∧ (s.txBusy = false → len ≤ s.codec.maxLen → s.txBuf.wf → ∃ (t : State) (f : List Byte),
      f = s.codec.frameEncode (s.txCounter + 1) (s.data.readBytes 0 len)
      ∧ exec (.send len) s = .next t
      ∧ t = { s with
          txCounter := s.txCounter + 1
          txBuf := t.txBuf
          res0 := s.txCounter + 1
          txBusy := s.nextSendAnswer
          packetsSent := if s.nextSendAnswer then s.packetsSent + 1 else s.packetsSent
          resLen := if s.nextSendAnswer then BitVec.ofNat 16 f.length else 0
          env := { s.env with
            sendAnswers := s.env.sendAnswers.tail
            requests := .send f.length s.nextSendAnswer :: s.env.requests }
          statusCode := if s.nextSendAnswer then .ok else .transportFailure }
      ∧ ∀ a, t.txBuf.read a = if a < f.length then f.getD a 0 else s.txBuf.read a)

/-- PROCESS_RX of a ready frame that passes FrameCheck and the guard completes: the guard takes the counter, the frame is
counted, the deciphered payload goes to DATA from byte 0 up, RES0 and RES_LEN say its counter and length, reception is armed
again, the code is OK whatever the transport answers, and nothing else changes (R192, R207, R208). -/
def Obligations.ProcrxDeliversAnAcceptedFrame : Prop :=
  ∀ (s : State) (ctr : Word) (n : Nat), s.initDone = true → s.rxState = .frameReady → s.data.wf →
    s.codec.frameCheck (s.rxBuf.readBytes 0 s.rxLen.toNat) = .checked ctr n →
    (s.lastAccepted.toNat < ctr.toNat ∨ s.lastAccepted = 0) → ∃ (t : State) (pl : List Byte),
      pl = s.codec.decPayload ctr (slice (s.rxBuf.readBytes 0 s.rxLen.toNat) s.codec.headerLen n)
      ∧ pl.length = n
      ∧ exec .procrx s = .next t
      ∧ t = { s with
          lastAccepted := ctr
          packetsReceived := s.packetsReceived + 1
          data := t.data
          res0 := ctr
          resLen := BitVec.ofNat 16 n
          rxState := if s.nextArmAnswer then .receiving else .halted
          env := { s.env with
            armAnswers := s.env.armAnswers.tail
            requests := .arm s.nextArmAnswer :: s.env.requests }
          statusCode := .ok }
      ∧ ∀ a, t.data.read a = if a < n then pl.getD a 0 else s.data.read a

/-- PROCESS_RX of a ready frame that fails FrameCheck with e, or that passes it and fails the guard (e = REPLAY), counts the
error, records e, sets RES_LEN = 0, arms reception again and reports e; every byte of DATA, the guard and everything else
stay as they were. With no frame ready it gives NOT_READY and changes nothing else (R192, R207, R253). -/
def Obligations.ProcrxDropsARejectedFrame : Prop :=
  ∀ s : State, s.initDone = true →
    (∀ e : Status, s.rxState = .frameReady →
      (s.codec.frameCheck (s.rxBuf.readBytes 0 s.rxLen.toNat) = .bad e
        ∨ (e = .replay ∧ s.lastAccepted ≠ 0 ∧ ∃ ctr n,
            s.codec.frameCheck (s.rxBuf.readBytes 0 s.rxLen.toNat) = .checked ctr n
            ∧ ctr.toNat ≤ s.lastAccepted.toNat)) →
      exec .procrx s = .next { s with
        errorsDetected := s.errorsDetected + 1
        lastError := e
        resLen := 0
        rxState := if s.nextArmAnswer then .receiving else .halted
        env := { s.env with
          armAnswers := s.env.armAnswers.tail
          requests := .arm s.nextArmAnswer :: s.env.requests }
        statusCode := e })
    ∧ (s.rxState ≠ .frameReady → exec .procrx s = .next { s with statusCode := .notReady })

/-- A frame with a nonzero counter that PROCESS_RX has accepted is rejected with REPLAY when the same bytes become ready
again, and the guard stays (R191, R194). -/
def Obligations.AcceptedFrameIsNotAcceptedAgain : Prop :=
  ∀ s t u : State, s.initDone = true → s.rxState = .frameReady →
    exec .procrx s = .next t → t.statusCode = .ok → t.res0 ≠ 0 →
    exec .procrx { t with rxState := .frameReady } = .next u →
    u.statusCode = .replay ∧ u.lastAccepted = t.lastAccepted ∧ u.data = t.data

/-- In every run with no reset, LAST_ACCEPTED never falls (R191, R195), from whatever state the run starts. -/
def Obligations.LastAcceptedNeverFallsInARun : Prop :=
  ∀ (k : Nat) (s t : State), (∀ e ∈ s.env.pending, e.isReset = false) →
    Host.Core.run Sys2Proof.core k s = .next t → s.lastAccepted.toNat ≤ t.lastAccepted.toNat

/-- Only PROCESS_RX and a reset change LAST_ACCEPTED, and an acceptance raises it unless it was 0 (R37, R191, R195). -/
def Obligations.OnlyProcrxMovesTheGuard : Prop :=
  ∀ s t : State, step s = .next t → t.lastAccepted ≠ s.lastAccepted →
    ∃ e rest, s.env.pending = e :: rest ∧ (e.isReset = true
      ∨ (e.commandRun = some .procrx ∧ t.statusCode = .ok ∧ t.res0 = t.lastAccepted
        ∧ t.packetsReceived = s.packetsReceived + 1
        ∧ (s.lastAccepted.toNat < t.lastAccepted.toNat ∨ s.lastAccepted = 0)))

/-- Only SEND and a reset change TX_COUNTER. A SEND changes it only while no send is outstanding and for a payload of at
most MAX; it then adds one, RES0 is the new value, and the code is OK or TRANSPORT_FAILURE (R36, R206). -/
def Obligations.OnlySendAdvancesTheCounter : Prop :=
  ∀ s t : State, step s = .next t → t.txCounter ≠ s.txCounter →
    ∃ e rest, s.env.pending = e :: rest ∧ (e.isReset = true
      ∨ ∃ len, e.commandRun = some (.send len) ∧ s.txBusy = false ∧ len ≤ s.codec.maxLen
          ∧ t.txCounter = s.txCounter + 1 ∧ t.res0 = t.txCounter
          ∧ (t.statusCode = .ok ∨ t.statusCode = .transportFailure))

/-- The health counters: outside a reset, PACKETS_SENT moves only by one and only with a SEND that returns OK,
PACKETS_RECEIVED only by one and only with a PROCESS_RX that returns OK, ERRORS_DETECTED only by one and only with a
PROCESS_RX that does not or with a boundary (R38, R39, R40, R263). -/
def Obligations.HealthCountersCountTheirEvents : Prop :=
  ∀ (s t : State) (e : Event) (rest : List Event), s.env.pending = e :: rest → e.isReset = false → step s = .next t →
    (t.packetsSent = s.packetsSent
      ∨ (t.packetsSent = s.packetsSent + 1 ∧ (∃ len, e.commandRun = some (.send len)) ∧ t.statusCode = .ok))
    ∧ (t.packetsReceived = s.packetsReceived
      ∨ (t.packetsReceived = s.packetsReceived + 1 ∧ e.commandRun = some .procrx ∧ t.statusCode = .ok))
    ∧ (t.errorsDetected = s.errorsDetected
      ∨ (t.errorsDetected = s.errorsDetected + 1
        ∧ ((e.commandRun = some .procrx ∧ t.statusCode ≠ .ok ∧ t.lastError = t.statusCode)
          ∨ ∃ count, e = .boundary count ∧ t.lastError = .tooShort)))

/-- Every transition of the receive state machine is a row of R200's table, in a state the invariant allows. -/
def Obligations.ReceiveTransitions : Prop :=
  ∀ (s t : State) (e : Event) (rest : List Event), s.Inv → s.env.pending = e :: rest → step s = .next t →
    t.rxState ≠ s.rxState →
    (s.rxState = .idle ∧ e.commandRun = some .init ∧ profileLegal s.codec s.bufCap = true
        ∧ t.rxState = (if s.nextArmAnswer then .receiving else .halted))
    ∨ (∃ count, s.rxState = .receiving ∧ e = .boundary count ∧ s.codec.minFrame ≤ min count s.bufCap
        ∧ t.rxState = .frameReady)
    ∨ (∃ count, s.rxState = .receiving ∧ e = .boundary count ∧ min count s.bufCap < s.codec.minFrame
        ∧ s.nextArmAnswer = false ∧ t.rxState = .halted)
    ∨ (s.rxState = .frameReady ∧ e.commandRun = some .procrx
        ∧ t.rxState = (if s.nextArmAnswer then .receiving else .halted))
    ∨ (e.isReset = true ∧ t.rxState = .idle)

/-- Every transition of the transmit state machine is a row of R201's table: only a SEND that returns OK starts a send, and
only a send-complete event, setting TX_DONE, or a reset ends it. -/
def Obligations.TransmitTransitions : Prop :=
  ∀ (s t : State) (e : Event) (rest : List Event), s.env.pending = e :: rest → step s = .next t →
    (s.txBusy = false → t.txBusy = true → (∃ len, e.commandRun = some (.send len)) ∧ t.statusCode = .ok)
    ∧ (s.txBusy = true → t.txBusy = false → (e = .sendComplete ∧ t.txDone = true) ∨ e.isReset = true)

/-- A halted receive direction: in an initialized engine no step but a reset leaves RX_HALTED or touches the receive buffer,
its length, the receive errors or the guard, and PROCESS_RX gives NOT_READY (R254). -/
def Obligations.HaltedReceptionStaysHalted : Prop :=
  ∀ s : State, s.initDone = true → s.rxState = .halted →
    exec .procrx s = .next { s with statusCode := .notReady }
    ∧ ∀ t : State, s.resetNext = false → step s = .next t →
        t.rxState = .halted ∧ t.rxBuf = s.rxBuf ∧ t.rxLen = s.rxLen ∧ t.errorsDetected = s.errorsDetected
          ∧ t.lastError = s.lastError ∧ t.lastAccepted = s.lastAccepted ∧ t.packetsReceived = s.packetsReceived

/-- No step but a reset changes TX_BUF while a send is outstanding, so the bytes the transport reads are stable (R234, R289). -/
def Obligations.InFlightFrameIsStable : Prop :=
  ∀ s t : State, s.txBusy = true → s.resetNext = false → step s = .next t → ∀ a, t.txBuf.read a = s.txBuf.read a

/-- No event of the transport moves a ready frame, its bytes or its length, raises TX_BUSY, or lowers TX_DONE
(R73, R288, R292). -/
def Obligations.TransportLeavesAReadyFrameAlone : Prop :=
  ∀ (s t : State) (e : Event) (rest : List Event), s.env.pending = e :: rest → e.isTransport = true → step s = .next t →
    (s.rxState = .frameReady → t.rxState = .frameReady ∧ t.rxBuf = s.rxBuf ∧ t.rxLen = s.rxLen)
    ∧ (s.txBusy = false → t.txBusy = false)
    ∧ (s.txDone = true → t.txDone = true)

/-- R231: a received byte is written only while RX_RECEIVING and only at an index below BUF_CAP. -/
def Obligations.RxByteWritesOneByte : Prop :=
  ∀ (s : State) (i : Nat) (b : Byte), s.rxBuf.wf → ∃ t : State, runEvent (.rxByte i b) s = .next t
    ∧ t = { s with rxBuf := t.rxBuf }
    ∧ ∀ a, t.rxBuf.read a = if s.rxState = .receiving ∧ i < s.bufCap ∧ a = i then b else s.rxBuf.read a

/-- R233: the boundary event, with its three cases. -/
def Obligations.BoundaryRecordsOrRejects : Prop :=
  ∀ (s : State) (count : Nat),
    (s.rxState ≠ .receiving → runEvent (.boundary count) s = .next s)
    ∧ (s.rxState = .receiving → min count s.bufCap < s.codec.headerLen + s.codec.tagLen →
      runEvent (.boundary count) s = .next { s with
        errorsDetected := s.errorsDetected + 1
        lastError := .tooShort
        rxState := if s.nextArmAnswer then .receiving else .halted
        env := { s.env with
          armAnswers := s.env.armAnswers.tail
          requests := .arm s.nextArmAnswer :: s.env.requests } })
    ∧ (s.rxState = .receiving → s.codec.headerLen + s.codec.tagLen ≤ min count s.bufCap →
      runEvent (.boundary count) s = .next { s with
        rxLen := BitVec.ofNat 16 (min count s.bufCap)
        rxState := .frameReady })

/-- R235: a send-complete event ends an outstanding send and sets TX_DONE; a stray one is ignored. -/
def Obligations.SendCompleteEndsTheSend : Prop :=
  ∀ s : State,
    (s.txBusy = true → runEvent .sendComplete s = .next { s with
      txBusy := false
      txDone := true })
    ∧ (s.txBusy = false → runEvent .sendComplete s = .next s)

/-! ### The register window (10_state.md, 20_memory.md) -/

/-- R63: a host access is a bus error exactly when its width is not 32 bits, its offset is not a multiple of 4, or its
offset is unmapped. It is then a fault of the host at that access, which returns no data: the step marks it on the host's
run (the form of the mark is the model's, notes/assumptions/7.md), changes nothing of the engine, and goes on to the events
that follow. Every other access, a command included, has its own next state and marks nothing. -/
def Obligations.BusErrorExactly : Prop :=
  ∀ (s : State) (width : Nat) (off : Offset) (v : Word) (e : Event) (rest : List Event),
    s.env.pending = e :: rest → (e = .hostRead width off ∨ e = .hostWrite width off v) →
    (¬ (width = 32 ∧ mappedOffset s.bufCap off.toNat) →
      runEvent e s = .fault (.busError off)
      ∧ step s = .next { s with env := { s.env with
          pending := rest
          readData := none
          hostFaults := off :: s.env.hostFaults } })
    ∧ (width = 32 ∧ mappedOffset s.bufCap off.toNat →
      ∃ t : State, step s = .next t ∧ t.env.pending = rest ∧ t.env.hostFaults = s.env.hostFaults)

/-- What reading each register returns, write-only registers reading 0, and that a read changes nothing but the word
returned to the host (10_state.md R22, 20_memory.md R64, R66). -/
def Obligations.RegisterReads : Prop :=
  ∀ (s : State) (off : Offset) (v : Word),
    (off, v) ∈ [((0x000 : Offset), (0 : Word)), (0x004, s.statusWord), (0x008, s.arg0), (0x00C, s.arg1), (0x010, s.res0),
      (0x014, s.res1), (0x018, s.resLen.setWidth 32), (0x01C, s.lastError.code.setWidth 32), (0x020, 0), (0x024, 0),
      (0x028, 0), (0x02C, 0), (0x030, s.profile.setWidth 32), (0x034, s.sync), (0x038, s.maxPayload.setWidth 32),
      (0x040, s.txCounter), (0x044, s.lastAccepted), (0x048, s.packetsSent), (0x04C, s.packetsReceived),
      (0x050, s.errorsDetected), (0x054, s.rxLen.setWidth 32), (0x058, s.irqStatus.setWidth 32),
      (0x05C, s.irqEnable.setWidth 32), (0x060, BitVec.ofNat 32 s.bufCap)] →
    runEvent (.hostRead 32 off) s = .next { s with env := { s.env with readData := some v } }

/-- The bits of STATUS (R24), the four values of RX_STATE (R47) and the twelve values of the status codes (R250). -/
def Obligations.StatusBits : Prop :=
  (∀ s : State,
    s.statusWord.extractLsb' 0 8 = s.statusCode.code
    ∧ s.statusWord.getLsbD 8 = s.initDone
    ∧ s.statusWord.extractLsb' 9 2 = s.rxState.code
    ∧ s.statusWord.getLsbD 11 = s.txBusy
    ∧ (s.statusWord.getLsbD 12 = true ↔ s.rxState = .frameReady)
    ∧ (s.statusWord.getLsbD 13 = true ↔ s.rxState = .halted)
    ∧ s.statusWord.extractLsb' 14 18 = 0)
    ∧ RxState.code .idle = 0 ∧ RxState.code .receiving = 1 ∧ RxState.code .frameReady = 2 ∧ RxState.code .halted = 3
    ∧ Status.code .ok = 0x00 ∧ Status.code .tooShort = 0x01 ∧ Status.code .badSync = 0x02
    ∧ Status.code .badLength = 0x03 ∧ Status.code .badAuth = 0x04 ∧ Status.code .replay = 0x05
    ∧ Status.code .busy = 0x06 ∧ Status.code .transportFailure = 0x07 ∧ Status.code .tooLarge = 0x08
    ∧ Status.code .invalidArgument = 0x09 ∧ Status.code .notReady = 0x0A ∧ Status.code .illegalCommand = 0x0B
    ∧ State.reset.statusWord = 0

/-- The interrupt line is high while some source is both pending and enabled (10_state.md R42, R43,
60_exceptions.md R260). -/
def Obligations.IrqIsPendingAndEnabled : Prop :=
  ∀ s : State,
    (s.irq = true ↔ ∃ i < 3, s.irqStatus.getLsbD i = true ∧ s.irqEnable.getLsbD i = true)
    ∧ (s.irqStatus.getLsbD 0 = true ↔ s.rxState = .frameReady)
    ∧ s.irqStatus.getLsbD 1 = s.txDone
    ∧ (s.irqStatus.getLsbD 2 = true ↔ s.rxState = .halted)

/-- R64: what the host may write to a register that stores nothing for it: a read-only register ignores it, IRQ_STATUS
clears TX_DONE where bit 1 is 1, a locked configuration register ignores it, and none of them is a bus error; reading CMD
or a key register returns 0. -/
def Obligations.AccessTypes : Prop :=
  ∀ (s : State) (off : Offset) (v : Word),
    (off ∈ [(0x000 : Offset), 0x020, 0x024, 0x028, 0x02C] →
      runEvent (.hostRead 32 off) s = .next { s with env := { s.env with readData := some 0 } })
    ∧ (off ∈ [(0x004 : Offset), 0x010, 0x014, 0x018, 0x01C, 0x040, 0x044, 0x048, 0x04C, 0x050, 0x054, 0x060] →
      runEvent (.hostWrite 32 off v) s = .next s)
    ∧ runEvent (.hostWrite 32 0x058 v) s = .next { s with txDone := s.txDone && !v.getLsbD 1 }
    ∧ (s.initDone = true → off ∈ [(0x020 : Offset), 0x024, 0x028, 0x02C, 0x030, 0x034, 0x038] →
      runEvent (.hostWrite 32 off v) s = .next s)

/-- What a write to a writable register stores: ARG0, ARG1 and IRQ_ENABLE always, the key and configuration registers before
INIT; reserved bits are dropped; nothing else changes (10_state.md R25, R29, R32-R35, R43). -/
def Obligations.RegisterWrites : Prop :=
  ∀ (s : State) (v : Word),
    runEvent (.hostWrite 32 0x008 v) s = .next { s with arg0 := v }
    ∧ runEvent (.hostWrite 32 0x00C v) s = .next { s with arg1 := v }
    ∧ runEvent (.hostWrite 32 0x05C v) s = .next { s with irqEnable := v.extractLsb' 0 3 }
    ∧ (s.initDone = false →
      runEvent (.hostWrite 32 0x020 v) s = .next { s with key0 := v }
      ∧ runEvent (.hostWrite 32 0x024 v) s = .next { s with key1 := v }
      ∧ runEvent (.hostWrite 32 0x028 v) s = .next { s with key2 := v }
      ∧ runEvent (.hostWrite 32 0x02C v) s = .next { s with key3 := v }
      ∧ runEvent (.hostWrite 32 0x030 v) s = .next { s with profile := v.extractLsb' 0 7 }
      ∧ runEvent (.hostWrite 32 0x034 v) s = .next { s with sync := v }
      ∧ runEvent (.hostWrite 32 0x038 v) s = .next { s with maxPayload := v.extractLsb' 0 16 })

/-- R65: word i of the DATA window is its four bytes, the lowest first; writing it writes those four bytes and nothing else,
and reading it returns them. -/
def Obligations.DataWindowWords : Prop :=
  ∀ (s : State) (i : Nat) (v : Word), Config.LegalBufCap s.bufCap → s.data.wf → i < s.bufCap / 4 →
    (∃ t : State, runEvent (.hostWrite 32 (BitVec.ofNat 12 (0x100 + 4 * i)) v) s = .next t
      ∧ t = { s with data := t.data }
      ∧ (∀ j < 4, t.data.read (4 * i + j) = v.extractLsb' (8 * j) 8)
      ∧ ∀ a, a < 4 * i ∨ 4 * i + 4 ≤ a → t.data.read a = s.data.read a)
    ∧ ∃ w : Word, runEvent (.hostRead 32 (BitVec.ofNat 12 (0x100 + 4 * i))) s
          = .next { s with env := { s.env with readData := some w } }
      ∧ ∀ j < 4, w.extractLsb' (8 * j) 8 = s.data.read (4 * i + j)

/-- No host read tells anything of the key, the key schedule, the receive buffer or the transmit buffer: two engines that
differ only there answer every read alike (10_state.md R29, 20_memory.md R65, 60_exceptions.md R262). -/
def Obligations.ReadsDoNotRevealTheKey : Prop :=
  ∀ (s : State) (k0 k1 k2 k3 : Word) (rk : KeySchedule) (rxb txb : Memory) (width : Nat) (off : Offset) (t : State),
    t = { s with
      key0 := k0
      key1 := k1
      key2 := k2
      key3 := k3
      rk := rk
      rxBuf := rxb
      txBuf := txb } →
    (∀ f, runEvent (.hostRead width off) s = .fault f ↔ runEvent (.hostRead width off) t = .fault f)
    ∧ ∀ s', runEvent (.hostRead width off) s = .next s' →
        ∃ t', runEvent (.hostRead width off) t = .next t' ∧ t'.env.readData = s'.env.readData

/-- R31: once INIT is done, a write to a key or configuration register is ignored with no bus error, and no step but a reset
clears INIT_DONE or changes the key, the configuration or the key schedule. -/
def Obligations.ConfigurationIsLocked : Prop :=
  ∀ s : State, s.initDone = true →
    (∀ (off : Offset) (v : Word), off ∈ [(0x020 : Offset), 0x024, 0x028, 0x02C, 0x030, 0x034, 0x038] →
      runEvent (.hostWrite 32 off v) s = .next s)
    ∧ ∀ t : State, step s = .next t → s.resetNext = false →
        t.initDone = true ∧ t.key0 = s.key0 ∧ t.key1 = s.key1 ∧ t.key2 = s.key2 ∧ t.key3 = s.key3
          ∧ t.profile = s.profile ∧ t.sync = s.sync ∧ t.maxPayload = s.maxPayload ∧ t.rk = s.rk

/-! ### Reset and the invariant (70_reset_and_hazards.md) -/

/-- A reset event gives every register its reset value, RK and each buffer byte what is drawn, and leaves the capacity and
the agents around the engine alone, with no request to the transport; and every assignment of words to RK and of bytes to
the three buffers is what some draw gives (R280, R281, 10_state.md R49). -/
def Obligations.ResetRestoresEveryRegister : Prop :=
  ∀ s : State,
    (∀ d : ResetDraw, ∃ t : State, runEvent (.reset d) s = .next t
      ∧ t.statusCode = .ok ∧ t.arg0 = 0 ∧ t.arg1 = 0 ∧ t.res0 = 0 ∧ t.res1 = 0 ∧ t.resLen = 0 ∧ t.lastError = .ok
      ∧ t.key0 = 0 ∧ t.key1 = 0 ∧ t.key2 = 0 ∧ t.key3 = 0
      ∧ t.profile = 0x20 ∧ t.sync = 0x000055AA ∧ t.maxPayload = 64
      ∧ t.txCounter = 0 ∧ t.lastAccepted = 0 ∧ t.packetsSent = 0 ∧ t.packetsReceived = 0 ∧ t.errorsDetected = 0
      ∧ t.rxLen = 0 ∧ t.txDone = false ∧ t.irqEnable = 0 ∧ t.initDone = false ∧ t.rxState = .idle ∧ t.txBusy = false
      ∧ t.irq = false ∧ t.bufCap = s.bufCap ∧ t.env = s.env)
    ∧ ∀ (rk : KeySchedule) (f g h : Nat → Byte), ∃ (d : ResetDraw) (t : State), runEvent (.reset d) s = .next t
      ∧ t.rk = rk
      ∧ ∀ a < s.bufCap, t.data.read a = f a ∧ t.rxBuf.read a = g a ∧ t.txBuf.read a = h a

/-- The machine right after reset meets the invariant. That a buffer is a canonical list and what it holds in
`State.reset` are the model's choice (notes/assumptions/1.md); the rest of the invariant is of the spec's reset values. -/
def Obligations.ResetMeetsTheInvariant : Prop :=
  State.reset.Inv

/-- Every step from a state that meets the invariant gives a state that meets it: the buffers canonical and inside
BUF_CAP, RES_LEN and RX_LEN at most BUF_CAP, a ready frame at least MIN_FRAME long, a receive error in LAST_ERROR, before
INIT the channel as reset left it, and after INIT a legal profile, the schedule of the stored key and RX_STATE not
RX_IDLE. -/
def Obligations.StepKeepsTheInvariant : Prop :=
  ∀ s t : State, s.Inv → step s = .next t → t.Inv
end

