-- ==== Sys2Proof/Laws/Bytes.lean ====
section
/-! SUPPORT. Serialization, cipher blocks as bytes, and the 8-byte pieces of a sequence. -/

namespace Sys2Proof.Machine

/-! ### Serialization (00_scope.md R9) -/

@[simp] theorem serLE_length (n v : Nat) : (serLE n v).length = n := by
  induction n generalizing v with
  | zero => rfl
  | succ n ih => simp [serLE, ih]

/-- The value of `n` bytes is below 256^n. -/
theorem deserLE_lt (bs : List Byte) : deserLE bs < 256 ^ bs.length := by
  induction bs with
  | nil => simp [deserLE]
  | cons b bs ih =>
    have := b.isLt
    simp only [deserLE, List.length_cons, Nat.pow_succ]
    omega

/-- Reading back a serialized value. -/
theorem deserLE_serLE (n v : Nat) : deserLE (serLE n v) = v % 256 ^ n := by
  induction n generalizing v with
  | zero => simp [serLE, deserLE, Nat.mod_one]
  | succ n ih =>
    have h : v % 256 ^ (n + 1) = v % 256 + 256 * (v / 256 % 256 ^ n) := by
      rw [Nat.pow_succ, Nat.mul_comm, Nat.mod_mul]
    simp [serLE, deserLE, ih, h]

/-- Serializing back a value that was read. -/
theorem serLE_deserLE (bs : List Byte) : serLE bs.length (deserLE bs) = bs := by
  induction bs with
  | nil => rfl
  | cons b bs ih =>
    have hb := b.isLt
    have h1 : (b.toNat + 256 * deserLE bs) / 256 = deserLE bs := by omega
    have h2 : BitVec.ofNat 8 (b.toNat + 256 * deserLE bs) = b := by
      apply BitVec.eq_of_toNat_eq
      simp only [BitVec.toNat_ofNat]
      omega
    simp [serLE, deserLE, h1, h2, ih]

@[simp] theorem ser_length (n v : Nat) (o : Order) : (ser n v o).length = n := by
  cases o <;> simp [ser]

/-- Reading back a serialized value, in either order. -/
theorem deser_ser (n v : Nat) (o : Order) : deser (ser n v o) o = v % 256 ^ n := by
  cases o <;> simp [ser, deser, deserLE_serLE]

/-! ### Words and blocks (40_cipher.md R111) -/

theorem le32_serLE (w : Word) : le32 (serLE 4 w.toNat) = w := by
  have := w.isLt
  apply BitVec.eq_of_toNat_eq
  rw [le32, deserLE_serLE, BitVec.toNat_ofNat]
  omega

theorem serLE_le32 {bs : List Byte} (h : bs.length = 4) : serLE 4 (le32 bs).toNat = bs := by
  have hlt := deserLE_lt bs
  rw [h] at hlt
  have : (le32 bs).toNat = deserLE bs := by
    rw [le32, BitVec.toNat_ofNat]; exact Nat.mod_eq_of_lt (by omega)
  rw [this, ← h, serLE_deserLE]

@[simp] theorem toBytes_length (b : Block) : b.toBytes.length = 8 := by simp [Block.toBytes]

theorem toBytes_take (b : Block) : b.toBytes.take 4 = serLE 4 b.w0.toNat := by
  simp [Block.toBytes]

theorem toBytes_drop (b : Block) : b.toBytes.drop 4 = serLE 4 b.w1.toNat := by
  simp [Block.toBytes]

theorem ofBytes_toBytes (b : Block) : Block.ofBytes b.toBytes = b := by
  simp [Block.ofBytes, toBytes_take, toBytes_drop, le32_serLE]

theorem toBytes_ofBytes {bs : List Byte} (h : bs.length = 8) : (Block.ofBytes bs).toBytes = bs := by
  simp [Block.ofBytes, Block.toBytes, serLE_le32, h]

/-! ### The 8-byte pieces of a sequence -/

@[simp] theorem pieces_length (k : Nat) (d : List Byte) : (pieces k d).length = k := by
  induction k generalizing d with
  | zero => rfl
  | succ k ih => simp [pieces, ih]

theorem length_of_mem_pieces {k : Nat} {d p : List Byte} (h : 8 * k ≤ d.length) (hp : p ∈ pieces k d) :
    p.length = 8 := by
  induction k generalizing d with
  | zero => simp [pieces] at hp
  | succ k ih =>
    rcases List.mem_cons.mp hp with rfl | hp
    · simp; omega
    · exact ih (by simp; omega) hp

theorem length_of_mem_wholePieces {d p : List Byte} (hp : p ∈ wholePieces d) : p.length = 8 :=
  length_of_mem_pieces (by omega) hp

theorem pieces_flatten (k : Nat) (d : List Byte) : (pieces k d).flatten = d.take (8 * k) := by
  induction k generalizing d with
  | zero => simp [pieces]
  | succ k ih =>
    rw [pieces, List.flatten_cons, ih, Nat.mul_succ, Nat.add_comm, List.take_add]

/-- A sequence is its whole pieces and its last bytes. -/
theorem wholePieces_append_lastBytes (d : List Byte) : (wholePieces d).flatten ++ lastBytes d = d := by
  rw [wholePieces, pieces_flatten, lastBytes, List.take_append_drop]

@[simp] theorem lastBytes_length (d : List Byte) : (lastBytes d).length = d.length % 8 := by
  simp [lastBytes]; omega

theorem pieces_of_flatten (ps : List (List Byte)) (r : List Byte) (h : ∀ p ∈ ps, p.length = 8) :
    pieces ps.length (ps.flatten ++ r) = ps := by
  induction ps with
  | nil => rfl
  | cons p ps ih =>
    have hp : p.length = 8 := h p (by simp)
    simp [pieces, hp, ih fun q hq => h q (by simp [hq])]

theorem flatten_length (ps : List (List Byte)) (h : ∀ p ∈ ps, p.length = 8) : ps.flatten.length = 8 * ps.length := by
  induction ps with
  | nil => rfl
  | cons p ps ih =>
    simp [h p (by simp), ih fun q hq => h q (by simp [hq])]; omega

/-- The pieces of a sequence put together from pieces and a short rest. -/
theorem wholePieces_of_flatten (ps : List (List Byte)) (r : List Byte) (h : ∀ p ∈ ps, p.length = 8)
    (hr : r.length < 8) : wholePieces (ps.flatten ++ r) = ps := by
  have : (ps.flatten ++ r).length / 8 = ps.length := by
    rw [List.length_append, flatten_length ps h]; omega
  rw [wholePieces, this, pieces_of_flatten ps r h]

/-- The last bytes of a sequence put together from pieces and a short rest. -/
theorem lastBytes_of_flatten (ps : List (List Byte)) (r : List Byte) (h : ∀ p ∈ ps, p.length = 8)
    (hr : r.length < 8) : lastBytes (ps.flatten ++ r) = r := by
  have hl : (ps.flatten ++ r).length / 8 = ps.length := by
    rw [List.length_append, flatten_length ps h]; omega
  rw [lastBytes, hl, ← flatten_length ps h]
  simp

/-! ### Exclusive-or of sequences -/

@[simp] theorem xorBytes_length (d e : List Byte) : (xorBytes d e).length = min d.length e.length := by
  simp [xorBytes]

/-- The keystream cancels itself. -/
theorem xorBytes_xorBytes {d k : List Byte} (h : d.length ≤ k.length) : xorBytes (xorBytes d k) k = d := by
  induction d generalizing k with
  | nil => simp [xorBytes]
  | cons b d ih =>
    cases k with
    | nil => simp at h
    | cons c k =>
      have := ih (k := k) (by simpa using h)
      simp only [xorBytes] at this ⊢
      simp [this]

end Sys2Proof.Machine
end

