-- ==== Sys2Proof/Laws/Cipher.lean ====
section
/-! SUPPORT. The rotations, the cipher rounds and the MAC padding. -/

namespace Sys2Proof.Machine

/-- The cipher's right rotation is the rotation of `BitVec`. -/
theorem ror32_eq {r : Nat} (h : r < 32) (v : Word) : ror32 v r = v.rotateRight r := by
  simp [ror32, BitVec.rotateRight, BitVec.rotateRightAux, Nat.mod_eq_of_lt h]

/-- The cipher's left rotation is the rotation of `BitVec`. -/
theorem rol32_eq {r : Nat} (h : r < 32) (v : Word) : rol32 v r = v.rotateLeft r := by
  simp [rol32, BitVec.rotateLeft, BitVec.rotateLeftAux, Nat.mod_eq_of_lt h]

/-- The hash's left rotation is the rotation of `BitVec`. -/
theorem rol64_eq {r : Nat} (h : r < 64) (v : DWord) : rol64 v r = v.rotateLeft r := by
  simp [rol64, BitVec.rotateLeft, BitVec.rotateLeftAux, Nat.mod_eq_of_lt h]

theorem rol32_ror32 {r : Nat} (h : r < 32) (v : Word) : rol32 (ror32 v r) r = v := by
  rw [rol32_eq h, ror32_eq h]
  ext i hi
  simp only [BitVec.getElem_rotateLeft, BitVec.getElem_rotateRight, Nat.mod_eq_of_lt h]
  grind

theorem ror32_rol32 {r : Nat} (h : r < 32) (v : Word) : ror32 (rol32 v r) r = v := by
  rw [rol32_eq h, ror32_eq h]
  ext i hi
  simp only [BitVec.getElem_rotateLeft, BitVec.getElem_rotateRight, Nat.mod_eq_of_lt h]
  grind

/-- Each line of R113 undoes one line of R112. -/
theorem decRound_encRound (k : Word) (b : Block) : decRound k (encRound k b) = b := by
  simp only [decRound, encRound, Config.alpha, Config.beta]
  ext1
  · simp [ror32_rol32, rol32_ror32]
  · simp [ror32_rol32]

/-- Each line of R112 undoes one line of R113. -/
theorem encRound_decRound (k : Word) (b : Block) : encRound k (decRound k b) = b := by
  simp only [decRound, encRound, Config.alpha, Config.beta]
  ext1
  · simp [ror32_rol32]
  · simp [ror32_rol32, rol32_ror32]

/-- The padded MAC input is a non-empty row of whole blocks (R145, R146). -/
theorem macPad_length (d : List Byte) : (macPad d).length % 8 = 0 ∧ 0 < (macPad d).length := by
  rw [macPad]
  split
  next h => simp; omega
  next h => omega

end Sys2Proof.Machine
end

