-- ==== Sys2Proof/Laws/Memory.lean ====
section
/-! SUPPORT. What the byte-buffer operations do: a read after a write, and the canonical form. -/

namespace Sys2Proof.Machine

/-! ### One byte -/

/-- A canonical buffer reads 0 below its first entry. -/
theorem read_below {c : Host.Cell} {m : Memory} (h : Memory.wf (c :: m)) {a : Nat} (ha : a < c.1) :
    Memory.read (c :: m) a = unlistedByte := by
  obtain ⟨hp, hv⟩ := h
  induction m generalizing c with
  | nil => simp [Memory.read, Nat.ne_of_lt ha]
  | cons d m ih =>
    have hcd : c.1 < d.1 := (List.pairwise_cons.mp hp).1 d (by simp)
    have := ih (c := d) (by omega) (List.pairwise_cons.mp hp).2 fun e he => hv e (List.mem_cons_of_mem c he)
    rw [Memory.read, if_neg (Nat.ne_of_lt ha), this]

/-- The tail of a canonical buffer is canonical. -/
theorem wf_tail {c : Host.Cell} {m : Memory} (h : Memory.wf (c :: m)) : Memory.wf m :=
  ⟨(List.pairwise_cons.mp h.1).2, fun d hd => h.2 d (by simp [hd])⟩

/-- A canonical buffer reads 0 at the index of its own head, once the head is gone. -/
theorem read_tail_head {c : Host.Cell} {m : Memory} (h : Memory.wf (c :: m)) : Memory.read m c.1 = unlistedByte := by
  cases m with
  | nil => rfl
  | cons d m => exact read_below (wf_tail h) ((List.pairwise_cons.mp h.1).1 d (by simp))

/-- A read after a write in a canonical buffer. -/
theorem read_write {m : Memory} (h : m.wf) (a b : Nat) (v : Byte) :
    (m.write a v).read b = if b = a then v else m.read b := by
  induction m with
  | nil =>
    by_cases hv : v = unlistedByte
    · simp [Memory.write, Memory.read, hv]
    · simp [Memory.write, Memory.read, hv]
  | cons c m ih =>
    have ih := ih (wf_tail h)
    rw [Memory.write]
    split
    next hac =>
      split
      next hv =>
        split
        next hb => rw [hb, read_below h hac, hv]
        next => rfl
      next => simp [Memory.read]
    next hac =>
      split
      next hac' =>
        subst hac'
        split
        next hv =>
          split
          next hb => rw [hb, read_tail_head h, hv]
          next hb => simp [Memory.read, hb]
        next =>
          split
          next hb => simp [Memory.read, hb]
          next hb => simp [Memory.read, hb]
      next hac' =>
        simp only [Memory.read, ih]
        split <;> split <;> simp_all

/-- The entries of a written buffer: old ones, and the written one. -/
theorem mem_write {m : Memory} {a : Nat} {v : Byte} {c : Host.Cell} (h : c ∈ m.write a v) :
    c ∈ m ∨ (c = (a, v) ∧ v ≠ unlistedByte) := by
  induction m with
  | nil =>
    simp only [Memory.write] at h
    split at h <;> simp_all
  | cons d m ih =>
    simp only [Memory.write] at h
    repeat' split at h
    all_goals first
      | exact .inl h
      | (simp only [List.mem_cons] at h ⊢; tauto)

/-- A write keeps the canonical form. -/
theorem write_wf {m : Memory} (h : m.wf) (a : Nat) (v : Byte) : (m.write a v).wf := by
  refine ⟨?_, fun c hc => ?_⟩
  · induction m with
    | nil => simp only [Memory.write]; split <;> simp
    | cons d m ih =>
      obtain ⟨hd, hm⟩ := List.pairwise_cons.mp h.1
      simp only [Memory.write]
      repeat' split
      · exact h.1
      · refine List.pairwise_cons.mpr ⟨fun e he => ?_, h.1⟩
        rcases List.mem_cons.mp he with rfl | he
        · assumption
        · have := hd e he; simp only; omega
      · exact hm
      · subst_vars; exact List.pairwise_cons.mpr ⟨fun e he => hd e he, hm⟩
      · refine List.pairwise_cons.mpr ⟨fun e he => ?_, ih (wf_tail h)⟩
        rcases mem_write he with he | ⟨rfl, -⟩
        · exact hd e he
        · simp only; omega
  · rcases mem_write hc with hc | ⟨rfl, hv⟩
    · exact h.2 c hc
    · exact hv

/-- A write below the capacity keeps every entry below it. -/
theorem write_within {cap : Nat} {m : Memory} (h : m.within cap) {a : Nat} (ha : a < cap) (v : Byte) :
    (m.write a v).within cap := by
  intro c hc
  rcases mem_write hc with hc | ⟨rfl, -⟩
  · exact h c hc
  · exact ha

/-! ### Byte sequences -/

@[simp] theorem readBytes_length (m : Memory) (a n : Nat) : (m.readBytes a n).length = n := by
  induction n generalizing a with
  | zero => rfl
  | succ n ih => simp [Memory.readBytes, ih]

/-- Byte `i` of a sequence read from a buffer. -/
theorem readBytes_getElem? (m : Memory) (a n i : Nat) (h : i < n) : (m.readBytes a n)[i]? = some (m.read (a + i)) := by
  induction n generalizing a i with
  | zero => omega
  | succ n ih =>
    cases i with
    | zero => simp [Memory.readBytes]
    | succ i =>
      have := ih (a + 1) i (by omega)
      simp only [Memory.readBytes, List.getElem?_cons_succ, this]
      congr 2; omega

/-- Equal bytes give equal sequences. -/
theorem readBytes_congr {m m' : Memory} {a n : Nat} (h : ∀ i, a ≤ i → i < a + n → m.read i = m'.read i) :
    m.readBytes a n = m'.readBytes a n := by
  induction n generalizing a with
  | zero => rfl
  | succ n ih =>
    rw [Memory.readBytes, Memory.readBytes, h a (Nat.le_refl a) (by omega)]
    rw [ih fun i hi hi' => h i (by omega) (by omega)]

/-- Writing a sequence keeps the canonical form. -/
theorem writeBytes_wf {m : Memory} (h : m.wf) (a : Nat) (bs : List Byte) : (m.writeBytes a bs).wf := by
  induction bs generalizing m a with
  | nil => exact h
  | cons b bs ih => exact ih (write_wf h a b) (a + 1)

/-- Writing a sequence that fits keeps every entry below the capacity. -/
theorem writeBytes_within {cap : Nat} {m : Memory} (h : m.within cap) {a : Nat} {bs : List Byte}
    (hf : a + bs.length ≤ cap) : (m.writeBytes a bs).within cap := by
  induction bs generalizing m a with
  | nil => exact h
  | cons b bs ih =>
    simp only [List.length_cons] at hf
    exact ih (write_within h (by omega) b) (by omega)

/-- A read after writing a sequence. -/
theorem read_writeBytes {m : Memory} (h : m.wf) (a b : Nat) (bs : List Byte) :
    (m.writeBytes a bs).read b = if a ≤ b ∧ b < a + bs.length then bs.getD (b - a) 0 else m.read b := by
  induction bs generalizing m a with
  | nil => simp [Memory.writeBytes]
  | cons v bs ih =>
    rw [Memory.writeBytes, ih (write_wf h a v), read_write h]
    simp only [List.length_cons]
    by_cases hb : b = a
    · subst hb; simp
    · by_cases hin : a + 1 ≤ b ∧ b < a + 1 + bs.length
      · have h' : a ≤ b ∧ b < a + (bs.length + 1) := by omega
        rw [if_pos hin, if_pos h']
        have : b - a = (b - (a + 1)) + 1 := by omega
        rw [this]; simp
      · have h' : ¬(a ≤ b ∧ b < a + (bs.length + 1)) := by omega
        rw [if_neg hin, if_neg h', if_neg hb]

/-- Reading back the sequence just written. -/
theorem readBytes_writeBytes {m : Memory} (h : m.wf) (a : Nat) (bs : List Byte) :
    (m.writeBytes a bs).readBytes a bs.length = bs := by
  apply List.ext_getElem?
  intro i
  by_cases hi : i < bs.length
  · rw [readBytes_getElem? _ _ _ _ hi, read_writeBytes h, if_pos (by omega)]
    simp [hi]
  · simp [Nat.not_lt.mp hi]

/-- Two canonical buffers that read alike are equal. -/
theorem wf_ext {m m' : Memory} (h : m.wf) (h' : m'.wf) (e : ∀ a, m.read a = m'.read a) : m = m' := by
  induction m generalizing m' with
  | nil =>
    cases m' with
    | nil => rfl
    | cons c m' =>
      have := e c.1
      simp only [Memory.read, if_true] at this
      exact absurd this.symm (h'.2 c (by simp))
  | cons c m ih =>
    cases m' with
    | nil =>
      have := e c.1
      simp only [Memory.read, if_true] at this
      exact absurd this (h.2 c (by simp))
    | cons d m' =>
      have hc := e c.1
      have hd := e d.1
      have hk : c.1 = d.1 := by
        rcases Nat.lt_trichotomy c.1 d.1 with hlt | heq | hgt
        · rw [read_below h' hlt] at hc
          simp only [Memory.read, if_true] at hc
          exact absurd hc (h.2 c (by simp))
        · exact heq
        · rw [read_below h hgt] at hd
          simp only [Memory.read, if_true] at hd
          exact absurd hd.symm (h'.2 d (by simp))
      have hv : c.2 = d.2 := by simpa [Memory.read, hk] using hc
      have hcd : c = d := Prod.ext hk hv
      subst hcd
      rw [ih (wf_tail h) (wf_tail h')]
      intro a
      by_cases ha : a = c.1
      · rw [ha, read_tail_head h, read_tail_head h']
      · simpa [Memory.read, ha] using e a

/-- The empty buffer is canonical. -/
theorem nil_wf : Memory.wf [] := ⟨List.Pairwise.nil, fun _ hc => absurd hc List.not_mem_nil⟩

/-- What a reset draws for a buffer is canonical. -/
theorem drawnBuffer_wf (cap : Nat) (bs : List Byte) : (drawnBuffer cap bs).wf := writeBytes_wf nil_wf 0 _

/-- What a reset draws for a buffer lies below the capacity. -/
theorem drawnBuffer_within (cap : Nat) (bs : List Byte) : (drawnBuffer cap bs).within cap :=
  writeBytes_within (by simp [Memory.within]) (by simp)

end Sys2Proof.Machine
end

