-- ==== Sys2Proof/Laws/Codec.lean ====
section
/-! SUPPORT. The lengths of the codec's pieces, and what a checked frame is. -/

namespace Sys2Proof.Machine

variable (c : Codec)

/-! ### Lengths (43_frame_codec.md R161) -/

theorem tagLen_pos : 0 < c.tagLen := by
  rw [Codec.tagLen]; split <;> omega

theorem tagLen_le : c.tagLen ≤ 8 := by
  rw [Codec.tagLen]; split <;> omega

theorem syncLen_bounds : 1 ≤ c.syncLen ∧ c.syncLen ≤ 4 := by
  have := (c.profile.extractLsb' 5 2).isLt
  rw [Codec.syncLen]; omega

theorem lenBytes_cases : c.lenBytes = 1 ∨ c.lenBytes = 2 := by
  have := (c.profile.extractLsb' 4 1).isLt
  rw [Codec.lenBytes]; omega

theorem headerLen_bounds : 6 ≤ c.headerLen ∧ c.headerLen ≤ 10 := by
  have h1 := syncLen_bounds c
  have h2 := lenBytes_cases c
  rw [Codec.headerLen]; omega

@[simp] theorem syncBytes_length : c.syncBytes.length = c.syncLen := by simp [Codec.syncBytes]

@[simp] theorem auth_length (d : List Byte) : (c.auth d).length = c.tagLen := by
  rw [Codec.auth, Codec.tagLen]
  cases c.authenticator <;> simp [cbcMac]

@[simp] theorem header_length (ctr : Word) (n : Nat) : (c.header ctr n).length = c.headerLen := by
  simp [Codec.header, Codec.headerLen]; omega

@[simp] theorem keystream_length (ctr : Word) (n : Nat) : (c.keystream ctr n).length = 8 := by
  simp [Codec.keystream]

theorem length_of_mem_map_toBytes {ps : List (List Byte)} {f : Block → Block} {p : List Byte}
    (h : p ∈ ps.map fun b => (f (Block.ofBytes b)).toBytes) : p.length = 8 := by
  obtain ⟨b, -, rfl⟩ := List.mem_map.mp h
  simp

/-- The payload transform preserves the length (R165). -/
@[simp] theorem transform_length (f : Block → Block) (ctr : Word) (pl : List Byte) :
    (c.transform f ctr pl).length = pl.length := by
  rw [Codec.transform, List.length_append, flatten_length _ fun p hp => length_of_mem_map_toBytes hp]
  simp [wholePieces]; omega

@[simp] theorem encPayload_length (ctr : Word) (pl : List Byte) : (c.encPayload ctr pl).length = pl.length := by
  rw [Codec.encPayload]; split <;> simp

@[simp] theorem decPayload_length (ctr : Word) (pl : List Byte) : (c.decPayload ctr pl).length = pl.length := by
  rw [Codec.decPayload]; split <;> simp

/-- A frame is H + n + T bytes long (R160). -/
@[simp] theorem frameEncode_length (ctr : Word) (pl : List Byte) :
    (c.frameEncode ctr pl).length = c.headerLen + pl.length + c.tagLen := by
  simp [Codec.frameEncode, Nat.add_assoc]

@[simp] theorem slice_length (d : List Byte) (a n : Nat) : (slice d a n).length = min n (d.length - a) := by
  simp [slice]

/-! ### FrameCheck (R170) -/

/-- What a checked frame has passed. -/
theorem frameCheck_checked {d : List Byte} {ctr : Word} {n : Nat} (h : c.frameCheck d = .checked ctr n) :
    c.minFrame ≤ d.length ∧ d.take c.syncLen = c.syncBytes ∧ n = c.declaredLen d ∧ n ≤ c.maxLen
      ∧ c.headerLen + n + c.tagLen ≤ d.length
      ∧ slice d (c.headerLen + n) c.tagLen = c.auth (d.take (c.headerLen + n)) ∧ ctr = c.counterOf d := by
  simp only [Codec.frameCheck] at h
  split at h <;> try contradiction
  split at h <;> try contradiction
  split at h <;> try contradiction
  split at h <;> try contradiction
  injection h with h1 h2
  subst h1 h2
  refine ⟨by omega, by simp_all, rfl, by omega, by omega, by simp_all, rfl⟩

/-- The only codes that FrameCheck reports. -/
theorem frameCheck_bad {d : List Byte} {e : Status} (h : c.frameCheck d = .bad e) :
    e = .tooShort ∨ e = .badSync ∨ e = .badLength ∨ e = .badAuth := by
  simp only [Codec.frameCheck] at h
  repeat' split at h
  all_goals simp_all

/-- The payload of a checked frame has the declared length. -/
theorem payloadOf_length {d : List Byte} {ctr : Word} {n : Nat} (h : c.frameCheck d = .checked ctr n) (ctr' : Word) :
    (c.payloadOf d ctr' n).length = n := by
  have := frameCheck_checked c h
  simp [Codec.payloadOf]; omega

end Sys2Proof.Machine
end

