-- ==== Sys2Proof/Laws/State.lean ====
section
/-! SUPPORT. One lemma per field per named update of the state, each true by `rfl`, so that no proof unfolds a record
update; and the codec through each update that does not touch what it reads. -/

namespace Sys2Proof.Machine

variable (s : State)

/-! ### `State.finish` -/

@[simp] theorem finish_statusCode (c : Status) : (s.finish c).statusCode = c := rfl
@[simp] theorem finish_arg0 (c : Status) : (s.finish c).arg0 = s.arg0 := rfl
@[simp] theorem finish_arg1 (c : Status) : (s.finish c).arg1 = s.arg1 := rfl
@[simp] theorem finish_res0 (c : Status) : (s.finish c).res0 = s.res0 := rfl
@[simp] theorem finish_res1 (c : Status) : (s.finish c).res1 = s.res1 := rfl
@[simp] theorem finish_resLen (c : Status) : (s.finish c).resLen = s.resLen := rfl
@[simp] theorem finish_lastError (c : Status) : (s.finish c).lastError = s.lastError := rfl
@[simp] theorem finish_key0 (c : Status) : (s.finish c).key0 = s.key0 := rfl
@[simp] theorem finish_key1 (c : Status) : (s.finish c).key1 = s.key1 := rfl
@[simp] theorem finish_key2 (c : Status) : (s.finish c).key2 = s.key2 := rfl
@[simp] theorem finish_key3 (c : Status) : (s.finish c).key3 = s.key3 := rfl
@[simp] theorem finish_profile (c : Status) : (s.finish c).profile = s.profile := rfl
@[simp] theorem finish_sync (c : Status) : (s.finish c).sync = s.sync := rfl
@[simp] theorem finish_maxPayload (c : Status) : (s.finish c).maxPayload = s.maxPayload := rfl
@[simp] theorem finish_txCounter (c : Status) : (s.finish c).txCounter = s.txCounter := rfl
@[simp] theorem finish_lastAccepted (c : Status) : (s.finish c).lastAccepted = s.lastAccepted := rfl
@[simp] theorem finish_packetsSent (c : Status) : (s.finish c).packetsSent = s.packetsSent := rfl
@[simp] theorem finish_packetsReceived (c : Status) : (s.finish c).packetsReceived = s.packetsReceived := rfl
@[simp] theorem finish_errorsDetected (c : Status) : (s.finish c).errorsDetected = s.errorsDetected := rfl
@[simp] theorem finish_rxLen (c : Status) : (s.finish c).rxLen = s.rxLen := rfl
@[simp] theorem finish_txDone (c : Status) : (s.finish c).txDone = s.txDone := rfl
@[simp] theorem finish_irqEnable (c : Status) : (s.finish c).irqEnable = s.irqEnable := rfl
@[simp] theorem finish_rk (c : Status) : (s.finish c).rk = s.rk := rfl
@[simp] theorem finish_initDone (c : Status) : (s.finish c).initDone = s.initDone := rfl
@[simp] theorem finish_rxState (c : Status) : (s.finish c).rxState = s.rxState := rfl
@[simp] theorem finish_txBusy (c : Status) : (s.finish c).txBusy = s.txBusy := rfl
@[simp] theorem finish_data (c : Status) : (s.finish c).data = s.data := rfl
@[simp] theorem finish_rxBuf (c : Status) : (s.finish c).rxBuf = s.rxBuf := rfl
@[simp] theorem finish_txBuf (c : Status) : (s.finish c).txBuf = s.txBuf := rfl
@[simp] theorem finish_bufCap (c : Status) : (s.finish c).bufCap = s.bufCap := rfl
@[simp] theorem finish_env (c : Status) : (s.finish c).env = s.env := rfl
@[simp] theorem finish_codec (c : Status) : (s.finish c).codec = s.codec := rfl
@[simp] theorem finish_dataPrefix (c : Status) (len : Nat) : (s.finish c).dataPrefix len = s.dataPrefix len := rfl

/-! ### `State.setResult` -/

@[simp] theorem setResult_statusCode (r0 r1 : Word) : (s.setResult r0 r1).statusCode = s.statusCode := rfl
@[simp] theorem setResult_arg0 (r0 r1 : Word) : (s.setResult r0 r1).arg0 = s.arg0 := rfl
@[simp] theorem setResult_arg1 (r0 r1 : Word) : (s.setResult r0 r1).arg1 = s.arg1 := rfl
@[simp] theorem setResult_res0 (r0 r1 : Word) : (s.setResult r0 r1).res0 = r0 := rfl
@[simp] theorem setResult_res1 (r0 r1 : Word) : (s.setResult r0 r1).res1 = r1 := rfl
@[simp] theorem setResult_resLen (r0 r1 : Word) : (s.setResult r0 r1).resLen = s.resLen := rfl
@[simp] theorem setResult_lastError (r0 r1 : Word) : (s.setResult r0 r1).lastError = s.lastError := rfl
@[simp] theorem setResult_key0 (r0 r1 : Word) : (s.setResult r0 r1).key0 = s.key0 := rfl
@[simp] theorem setResult_key1 (r0 r1 : Word) : (s.setResult r0 r1).key1 = s.key1 := rfl
@[simp] theorem setResult_key2 (r0 r1 : Word) : (s.setResult r0 r1).key2 = s.key2 := rfl
@[simp] theorem setResult_key3 (r0 r1 : Word) : (s.setResult r0 r1).key3 = s.key3 := rfl
@[simp] theorem setResult_profile (r0 r1 : Word) : (s.setResult r0 r1).profile = s.profile := rfl
@[simp] theorem setResult_sync (r0 r1 : Word) : (s.setResult r0 r1).sync = s.sync := rfl
@[simp] theorem setResult_maxPayload (r0 r1 : Word) : (s.setResult r0 r1).maxPayload = s.maxPayload := rfl
@[simp] theorem setResult_txCounter (r0 r1 : Word) : (s.setResult r0 r1).txCounter = s.txCounter := rfl
@[simp] theorem setResult_lastAccepted (r0 r1 : Word) : (s.setResult r0 r1).lastAccepted = s.lastAccepted := rfl
@[simp] theorem setResult_packetsSent (r0 r1 : Word) : (s.setResult r0 r1).packetsSent = s.packetsSent := rfl
@[simp] theorem setResult_packetsReceived (r0 r1 : Word) : (s.setResult r0 r1).packetsReceived = s.packetsReceived := rfl
@[simp] theorem setResult_errorsDetected (r0 r1 : Word) : (s.setResult r0 r1).errorsDetected = s.errorsDetected := rfl
@[simp] theorem setResult_rxLen (r0 r1 : Word) : (s.setResult r0 r1).rxLen = s.rxLen := rfl
@[simp] theorem setResult_txDone (r0 r1 : Word) : (s.setResult r0 r1).txDone = s.txDone := rfl
@[simp] theorem setResult_irqEnable (r0 r1 : Word) : (s.setResult r0 r1).irqEnable = s.irqEnable := rfl
@[simp] theorem setResult_rk (r0 r1 : Word) : (s.setResult r0 r1).rk = s.rk := rfl
@[simp] theorem setResult_initDone (r0 r1 : Word) : (s.setResult r0 r1).initDone = s.initDone := rfl
@[simp] theorem setResult_rxState (r0 r1 : Word) : (s.setResult r0 r1).rxState = s.rxState := rfl
@[simp] theorem setResult_txBusy (r0 r1 : Word) : (s.setResult r0 r1).txBusy = s.txBusy := rfl
@[simp] theorem setResult_data (r0 r1 : Word) : (s.setResult r0 r1).data = s.data := rfl
@[simp] theorem setResult_rxBuf (r0 r1 : Word) : (s.setResult r0 r1).rxBuf = s.rxBuf := rfl
@[simp] theorem setResult_txBuf (r0 r1 : Word) : (s.setResult r0 r1).txBuf = s.txBuf := rfl
@[simp] theorem setResult_bufCap (r0 r1 : Word) : (s.setResult r0 r1).bufCap = s.bufCap := rfl
@[simp] theorem setResult_env (r0 r1 : Word) : (s.setResult r0 r1).env = s.env := rfl
@[simp] theorem setResult_codec (r0 r1 : Word) : (s.setResult r0 r1).codec = s.codec := rfl
@[simp] theorem setResult_dataPrefix (r0 r1 : Word) (len : Nat) : (s.setResult r0 r1).dataPrefix len = s.dataPrefix len := rfl

/-! ### `State.setResLen` -/

@[simp] theorem setResLen_statusCode (n : Nat) : (s.setResLen n).statusCode = s.statusCode := rfl
@[simp] theorem setResLen_arg0 (n : Nat) : (s.setResLen n).arg0 = s.arg0 := rfl
@[simp] theorem setResLen_arg1 (n : Nat) : (s.setResLen n).arg1 = s.arg1 := rfl
@[simp] theorem setResLen_res0 (n : Nat) : (s.setResLen n).res0 = s.res0 := rfl
@[simp] theorem setResLen_res1 (n : Nat) : (s.setResLen n).res1 = s.res1 := rfl
@[simp] theorem setResLen_resLen (n : Nat) : (s.setResLen n).resLen = BitVec.ofNat 16 n := rfl
@[simp] theorem setResLen_lastError (n : Nat) : (s.setResLen n).lastError = s.lastError := rfl
@[simp] theorem setResLen_key0 (n : Nat) : (s.setResLen n).key0 = s.key0 := rfl
@[simp] theorem setResLen_key1 (n : Nat) : (s.setResLen n).key1 = s.key1 := rfl
@[simp] theorem setResLen_key2 (n : Nat) : (s.setResLen n).key2 = s.key2 := rfl
@[simp] theorem setResLen_key3 (n : Nat) : (s.setResLen n).key3 = s.key3 := rfl
@[simp] theorem setResLen_profile (n : Nat) : (s.setResLen n).profile = s.profile := rfl
@[simp] theorem setResLen_sync (n : Nat) : (s.setResLen n).sync = s.sync := rfl
@[simp] theorem setResLen_maxPayload (n : Nat) : (s.setResLen n).maxPayload = s.maxPayload := rfl
@[simp] theorem setResLen_txCounter (n : Nat) : (s.setResLen n).txCounter = s.txCounter := rfl
@[simp] theorem setResLen_lastAccepted (n : Nat) : (s.setResLen n).lastAccepted = s.lastAccepted := rfl
@[simp] theorem setResLen_packetsSent (n : Nat) : (s.setResLen n).packetsSent = s.packetsSent := rfl
@[simp] theorem setResLen_packetsReceived (n : Nat) : (s.setResLen n).packetsReceived = s.packetsReceived := rfl
@[simp] theorem setResLen_errorsDetected (n : Nat) : (s.setResLen n).errorsDetected = s.errorsDetected := rfl
@[simp] theorem setResLen_rxLen (n : Nat) : (s.setResLen n).rxLen = s.rxLen := rfl
@[simp] theorem setResLen_txDone (n : Nat) : (s.setResLen n).txDone = s.txDone := rfl
@[simp] theorem setResLen_irqEnable (n : Nat) : (s.setResLen n).irqEnable = s.irqEnable := rfl
@[simp] theorem setResLen_rk (n : Nat) : (s.setResLen n).rk = s.rk := rfl
@[simp] theorem setResLen_initDone (n : Nat) : (s.setResLen n).initDone = s.initDone := rfl
@[simp] theorem setResLen_rxState (n : Nat) : (s.setResLen n).rxState = s.rxState := rfl
@[simp] theorem setResLen_txBusy (n : Nat) : (s.setResLen n).txBusy = s.txBusy := rfl
@[simp] theorem setResLen_data (n : Nat) : (s.setResLen n).data = s.data := rfl
@[simp] theorem setResLen_rxBuf (n : Nat) : (s.setResLen n).rxBuf = s.rxBuf := rfl
@[simp] theorem setResLen_txBuf (n : Nat) : (s.setResLen n).txBuf = s.txBuf := rfl
@[simp] theorem setResLen_bufCap (n : Nat) : (s.setResLen n).bufCap = s.bufCap := rfl
@[simp] theorem setResLen_env (n : Nat) : (s.setResLen n).env = s.env := rfl
@[simp] theorem setResLen_codec (n : Nat) : (s.setResLen n).codec = s.codec := rfl
@[simp] theorem setResLen_dataPrefix (n : Nat) (len : Nat) : (s.setResLen n).dataPrefix len = s.dataPrefix len := rfl

/-! ### `State.failLength` -/

@[simp] theorem failLength_statusCode (c : Status) : (s.failLength c).statusCode = c := rfl
@[simp] theorem failLength_arg0 (c : Status) : (s.failLength c).arg0 = s.arg0 := rfl
@[simp] theorem failLength_arg1 (c : Status) : (s.failLength c).arg1 = s.arg1 := rfl
@[simp] theorem failLength_res0 (c : Status) : (s.failLength c).res0 = s.res0 := rfl
@[simp] theorem failLength_res1 (c : Status) : (s.failLength c).res1 = s.res1 := rfl
@[simp] theorem failLength_resLen (c : Status) : (s.failLength c).resLen = 0 := rfl
@[simp] theorem failLength_lastError (c : Status) : (s.failLength c).lastError = s.lastError := rfl
@[simp] theorem failLength_key0 (c : Status) : (s.failLength c).key0 = s.key0 := rfl
@[simp] theorem failLength_key1 (c : Status) : (s.failLength c).key1 = s.key1 := rfl
@[simp] theorem failLength_key2 (c : Status) : (s.failLength c).key2 = s.key2 := rfl
@[simp] theorem failLength_key3 (c : Status) : (s.failLength c).key3 = s.key3 := rfl
@[simp] theorem failLength_profile (c : Status) : (s.failLength c).profile = s.profile := rfl
@[simp] theorem failLength_sync (c : Status) : (s.failLength c).sync = s.sync := rfl
@[simp] theorem failLength_maxPayload (c : Status) : (s.failLength c).maxPayload = s.maxPayload := rfl
@[simp] theorem failLength_txCounter (c : Status) : (s.failLength c).txCounter = s.txCounter := rfl
@[simp] theorem failLength_lastAccepted (c : Status) : (s.failLength c).lastAccepted = s.lastAccepted := rfl
@[simp] theorem failLength_packetsSent (c : Status) : (s.failLength c).packetsSent = s.packetsSent := rfl
@[simp] theorem failLength_packetsReceived (c : Status) : (s.failLength c).packetsReceived = s.packetsReceived := rfl
@[simp] theorem failLength_errorsDetected (c : Status) : (s.failLength c).errorsDetected = s.errorsDetected := rfl
@[simp] theorem failLength_rxLen (c : Status) : (s.failLength c).rxLen = s.rxLen := rfl
@[simp] theorem failLength_txDone (c : Status) : (s.failLength c).txDone = s.txDone := rfl
@[simp] theorem failLength_irqEnable (c : Status) : (s.failLength c).irqEnable = s.irqEnable := rfl
@[simp] theorem failLength_rk (c : Status) : (s.failLength c).rk = s.rk := rfl
@[simp] theorem failLength_initDone (c : Status) : (s.failLength c).initDone = s.initDone := rfl
@[simp] theorem failLength_rxState (c : Status) : (s.failLength c).rxState = s.rxState := rfl
@[simp] theorem failLength_txBusy (c : Status) : (s.failLength c).txBusy = s.txBusy := rfl
@[simp] theorem failLength_data (c : Status) : (s.failLength c).data = s.data := rfl
@[simp] theorem failLength_rxBuf (c : Status) : (s.failLength c).rxBuf = s.rxBuf := rfl
@[simp] theorem failLength_txBuf (c : Status) : (s.failLength c).txBuf = s.txBuf := rfl
@[simp] theorem failLength_bufCap (c : Status) : (s.failLength c).bufCap = s.bufCap := rfl
@[simp] theorem failLength_env (c : Status) : (s.failLength c).env = s.env := rfl
@[simp] theorem failLength_codec (c : Status) : (s.failLength c).codec = s.codec := rfl
@[simp] theorem failLength_dataPrefix (c : Status) (len : Nat) : (s.failLength c).dataPrefix len = s.dataPrefix len := rfl

/-! ### `State.startReceive` -/

@[simp] theorem startReceive_statusCode : (s.startReceive).statusCode = s.statusCode := rfl
@[simp] theorem startReceive_arg0 : (s.startReceive).arg0 = s.arg0 := rfl
@[simp] theorem startReceive_arg1 : (s.startReceive).arg1 = s.arg1 := rfl
@[simp] theorem startReceive_res0 : (s.startReceive).res0 = s.res0 := rfl
@[simp] theorem startReceive_res1 : (s.startReceive).res1 = s.res1 := rfl
@[simp] theorem startReceive_resLen : (s.startReceive).resLen = s.resLen := rfl
@[simp] theorem startReceive_lastError : (s.startReceive).lastError = s.lastError := rfl
@[simp] theorem startReceive_key0 : (s.startReceive).key0 = s.key0 := rfl
@[simp] theorem startReceive_key1 : (s.startReceive).key1 = s.key1 := rfl
@[simp] theorem startReceive_key2 : (s.startReceive).key2 = s.key2 := rfl
@[simp] theorem startReceive_key3 : (s.startReceive).key3 = s.key3 := rfl
@[simp] theorem startReceive_profile : (s.startReceive).profile = s.profile := rfl
@[simp] theorem startReceive_sync : (s.startReceive).sync = s.sync := rfl
@[simp] theorem startReceive_maxPayload : (s.startReceive).maxPayload = s.maxPayload := rfl
@[simp] theorem startReceive_txCounter : (s.startReceive).txCounter = s.txCounter := rfl
@[simp] theorem startReceive_lastAccepted : (s.startReceive).lastAccepted = s.lastAccepted := rfl
@[simp] theorem startReceive_packetsSent : (s.startReceive).packetsSent = s.packetsSent := rfl
@[simp] theorem startReceive_packetsReceived : (s.startReceive).packetsReceived = s.packetsReceived := rfl
@[simp] theorem startReceive_errorsDetected : (s.startReceive).errorsDetected = s.errorsDetected := rfl
@[simp] theorem startReceive_rxLen : (s.startReceive).rxLen = s.rxLen := rfl
@[simp] theorem startReceive_txDone : (s.startReceive).txDone = s.txDone := rfl
@[simp] theorem startReceive_irqEnable : (s.startReceive).irqEnable = s.irqEnable := rfl
@[simp] theorem startReceive_rk : (s.startReceive).rk = s.rk := rfl
@[simp] theorem startReceive_initDone : (s.startReceive).initDone = s.initDone := rfl
@[simp] theorem startReceive_rxState : (s.startReceive).rxState = (if s.nextArmAnswer then .receiving else .halted) := rfl
@[simp] theorem startReceive_txBusy : (s.startReceive).txBusy = s.txBusy := rfl
@[simp] theorem startReceive_data : (s.startReceive).data = s.data := rfl
@[simp] theorem startReceive_rxBuf : (s.startReceive).rxBuf = s.rxBuf := rfl
@[simp] theorem startReceive_txBuf : (s.startReceive).txBuf = s.txBuf := rfl
@[simp] theorem startReceive_bufCap : (s.startReceive).bufCap = s.bufCap := rfl
@[simp] theorem startReceive_env : (s.startReceive).env = s.env.afterArm s.nextArmAnswer := rfl
@[simp] theorem startReceive_codec : (s.startReceive).codec = s.codec := rfl
@[simp] theorem startReceive_dataPrefix (len : Nat) : (s.startReceive).dataPrefix len = s.dataPrefix len := rfl

/-! ### `State.buildFrame` -/

@[simp] theorem buildFrame_statusCode (f : List Byte) : (s.buildFrame f).statusCode = s.statusCode := rfl
@[simp] theorem buildFrame_arg0 (f : List Byte) : (s.buildFrame f).arg0 = s.arg0 := rfl
@[simp] theorem buildFrame_arg1 (f : List Byte) : (s.buildFrame f).arg1 = s.arg1 := rfl
@[simp] theorem buildFrame_res0 (f : List Byte) : (s.buildFrame f).res0 = s.txCounter + 1 := rfl
@[simp] theorem buildFrame_res1 (f : List Byte) : (s.buildFrame f).res1 = s.res1 := rfl
@[simp] theorem buildFrame_resLen (f : List Byte) : (s.buildFrame f).resLen = s.resLen := rfl
@[simp] theorem buildFrame_lastError (f : List Byte) : (s.buildFrame f).lastError = s.lastError := rfl
@[simp] theorem buildFrame_key0 (f : List Byte) : (s.buildFrame f).key0 = s.key0 := rfl
@[simp] theorem buildFrame_key1 (f : List Byte) : (s.buildFrame f).key1 = s.key1 := rfl
@[simp] theorem buildFrame_key2 (f : List Byte) : (s.buildFrame f).key2 = s.key2 := rfl
@[simp] theorem buildFrame_key3 (f : List Byte) : (s.buildFrame f).key3 = s.key3 := rfl
@[simp] theorem buildFrame_profile (f : List Byte) : (s.buildFrame f).profile = s.profile := rfl
@[simp] theorem buildFrame_sync (f : List Byte) : (s.buildFrame f).sync = s.sync := rfl
@[simp] theorem buildFrame_maxPayload (f : List Byte) : (s.buildFrame f).maxPayload = s.maxPayload := rfl
@[simp] theorem buildFrame_txCounter (f : List Byte) : (s.buildFrame f).txCounter = s.txCounter + 1 := rfl
@[simp] theorem buildFrame_lastAccepted (f : List Byte) : (s.buildFrame f).lastAccepted = s.lastAccepted := rfl
@[simp] theorem buildFrame_packetsSent (f : List Byte) : (s.buildFrame f).packetsSent = s.packetsSent := rfl
@[simp] theorem buildFrame_packetsReceived (f : List Byte) : (s.buildFrame f).packetsReceived = s.packetsReceived := rfl
@[simp] theorem buildFrame_errorsDetected (f : List Byte) : (s.buildFrame f).errorsDetected = s.errorsDetected := rfl
@[simp] theorem buildFrame_rxLen (f : List Byte) : (s.buildFrame f).rxLen = s.rxLen := rfl
@[simp] theorem buildFrame_txDone (f : List Byte) : (s.buildFrame f).txDone = s.txDone := rfl
@[simp] theorem buildFrame_irqEnable (f : List Byte) : (s.buildFrame f).irqEnable = s.irqEnable := rfl
@[simp] theorem buildFrame_rk (f : List Byte) : (s.buildFrame f).rk = s.rk := rfl
@[simp] theorem buildFrame_initDone (f : List Byte) : (s.buildFrame f).initDone = s.initDone := rfl
@[simp] theorem buildFrame_rxState (f : List Byte) : (s.buildFrame f).rxState = s.rxState := rfl
@[simp] theorem buildFrame_txBusy (f : List Byte) : (s.buildFrame f).txBusy = s.txBusy := rfl
@[simp] theorem buildFrame_data (f : List Byte) : (s.buildFrame f).data = s.data := rfl
@[simp] theorem buildFrame_rxBuf (f : List Byte) : (s.buildFrame f).rxBuf = s.rxBuf := rfl
@[simp] theorem buildFrame_txBuf (f : List Byte) : (s.buildFrame f).txBuf = s.txBuf.writeBytes 0 f := rfl
@[simp] theorem buildFrame_bufCap (f : List Byte) : (s.buildFrame f).bufCap = s.bufCap := rfl
@[simp] theorem buildFrame_env (f : List Byte) : (s.buildFrame f).env = s.env := rfl
@[simp] theorem buildFrame_codec (f : List Byte) : (s.buildFrame f).codec = s.codec := rfl
@[simp] theorem buildFrame_dataPrefix (f : List Byte) (len : Nat) : (s.buildFrame f).dataPrefix len = s.dataPrefix len := rfl

/-! ### `State.pushEvent` -/

@[simp] theorem pushEvent_statusCode (e : Event) : (s.pushEvent e).statusCode = s.statusCode := rfl
@[simp] theorem pushEvent_arg0 (e : Event) : (s.pushEvent e).arg0 = s.arg0 := rfl
@[simp] theorem pushEvent_arg1 (e : Event) : (s.pushEvent e).arg1 = s.arg1 := rfl
@[simp] theorem pushEvent_res0 (e : Event) : (s.pushEvent e).res0 = s.res0 := rfl
@[simp] theorem pushEvent_res1 (e : Event) : (s.pushEvent e).res1 = s.res1 := rfl
@[simp] theorem pushEvent_resLen (e : Event) : (s.pushEvent e).resLen = s.resLen := rfl
@[simp] theorem pushEvent_lastError (e : Event) : (s.pushEvent e).lastError = s.lastError := rfl
@[simp] theorem pushEvent_key0 (e : Event) : (s.pushEvent e).key0 = s.key0 := rfl
@[simp] theorem pushEvent_key1 (e : Event) : (s.pushEvent e).key1 = s.key1 := rfl
@[simp] theorem pushEvent_key2 (e : Event) : (s.pushEvent e).key2 = s.key2 := rfl
@[simp] theorem pushEvent_key3 (e : Event) : (s.pushEvent e).key3 = s.key3 := rfl
@[simp] theorem pushEvent_profile (e : Event) : (s.pushEvent e).profile = s.profile := rfl
@[simp] theorem pushEvent_sync (e : Event) : (s.pushEvent e).sync = s.sync := rfl
@[simp] theorem pushEvent_maxPayload (e : Event) : (s.pushEvent e).maxPayload = s.maxPayload := rfl
@[simp] theorem pushEvent_txCounter (e : Event) : (s.pushEvent e).txCounter = s.txCounter := rfl
@[simp] theorem pushEvent_lastAccepted (e : Event) : (s.pushEvent e).lastAccepted = s.lastAccepted := rfl
@[simp] theorem pushEvent_packetsSent (e : Event) : (s.pushEvent e).packetsSent = s.packetsSent := rfl
@[simp] theorem pushEvent_packetsReceived (e : Event) : (s.pushEvent e).packetsReceived = s.packetsReceived := rfl
@[simp] theorem pushEvent_errorsDetected (e : Event) : (s.pushEvent e).errorsDetected = s.errorsDetected := rfl
@[simp] theorem pushEvent_rxLen (e : Event) : (s.pushEvent e).rxLen = s.rxLen := rfl
@[simp] theorem pushEvent_txDone (e : Event) : (s.pushEvent e).txDone = s.txDone := rfl
@[simp] theorem pushEvent_irqEnable (e : Event) : (s.pushEvent e).irqEnable = s.irqEnable := rfl
@[simp] theorem pushEvent_rk (e : Event) : (s.pushEvent e).rk = s.rk := rfl
@[simp] theorem pushEvent_initDone (e : Event) : (s.pushEvent e).initDone = s.initDone := rfl
@[simp] theorem pushEvent_rxState (e : Event) : (s.pushEvent e).rxState = s.rxState := rfl
@[simp] theorem pushEvent_txBusy (e : Event) : (s.pushEvent e).txBusy = s.txBusy := rfl
@[simp] theorem pushEvent_data (e : Event) : (s.pushEvent e).data = s.data := rfl
@[simp] theorem pushEvent_rxBuf (e : Event) : (s.pushEvent e).rxBuf = s.rxBuf := rfl
@[simp] theorem pushEvent_txBuf (e : Event) : (s.pushEvent e).txBuf = s.txBuf := rfl
@[simp] theorem pushEvent_bufCap (e : Event) : (s.pushEvent e).bufCap = s.bufCap := rfl
@[simp] theorem pushEvent_env (e : Event) : (s.pushEvent e).env = { s.env with pending := e :: s.env.pending } := rfl
@[simp] theorem pushEvent_codec (e : Event) : (s.pushEvent e).codec = s.codec := rfl
@[simp] theorem pushEvent_dataPrefix (e : Event) (len : Nat) : (s.pushEvent e).dataPrefix len = s.dataPrefix len := rfl

/-! ### `State.markHostFault` -/

@[simp] theorem markHostFault_statusCode (off : Offset) : (s.markHostFault off).statusCode = s.statusCode := rfl
@[simp] theorem markHostFault_arg0 (off : Offset) : (s.markHostFault off).arg0 = s.arg0 := rfl
@[simp] theorem markHostFault_arg1 (off : Offset) : (s.markHostFault off).arg1 = s.arg1 := rfl
@[simp] theorem markHostFault_res0 (off : Offset) : (s.markHostFault off).res0 = s.res0 := rfl
@[simp] theorem markHostFault_res1 (off : Offset) : (s.markHostFault off).res1 = s.res1 := rfl
@[simp] theorem markHostFault_resLen (off : Offset) : (s.markHostFault off).resLen = s.resLen := rfl
@[simp] theorem markHostFault_lastError (off : Offset) : (s.markHostFault off).lastError = s.lastError := rfl
@[simp] theorem markHostFault_key0 (off : Offset) : (s.markHostFault off).key0 = s.key0 := rfl
@[simp] theorem markHostFault_key1 (off : Offset) : (s.markHostFault off).key1 = s.key1 := rfl
@[simp] theorem markHostFault_key2 (off : Offset) : (s.markHostFault off).key2 = s.key2 := rfl
@[simp] theorem markHostFault_key3 (off : Offset) : (s.markHostFault off).key3 = s.key3 := rfl
@[simp] theorem markHostFault_profile (off : Offset) : (s.markHostFault off).profile = s.profile := rfl
@[simp] theorem markHostFault_sync (off : Offset) : (s.markHostFault off).sync = s.sync := rfl
@[simp] theorem markHostFault_maxPayload (off : Offset) : (s.markHostFault off).maxPayload = s.maxPayload := rfl
@[simp] theorem markHostFault_txCounter (off : Offset) : (s.markHostFault off).txCounter = s.txCounter := rfl
@[simp] theorem markHostFault_lastAccepted (off : Offset) : (s.markHostFault off).lastAccepted = s.lastAccepted := rfl
@[simp] theorem markHostFault_packetsSent (off : Offset) : (s.markHostFault off).packetsSent = s.packetsSent := rfl
@[simp] theorem markHostFault_packetsReceived (off : Offset) : (s.markHostFault off).packetsReceived = s.packetsReceived := rfl
@[simp] theorem markHostFault_errorsDetected (off : Offset) : (s.markHostFault off).errorsDetected = s.errorsDetected := rfl
@[simp] theorem markHostFault_rxLen (off : Offset) : (s.markHostFault off).rxLen = s.rxLen := rfl
@[simp] theorem markHostFault_txDone (off : Offset) : (s.markHostFault off).txDone = s.txDone := rfl
@[simp] theorem markHostFault_irqEnable (off : Offset) : (s.markHostFault off).irqEnable = s.irqEnable := rfl
@[simp] theorem markHostFault_rk (off : Offset) : (s.markHostFault off).rk = s.rk := rfl
@[simp] theorem markHostFault_initDone (off : Offset) : (s.markHostFault off).initDone = s.initDone := rfl
@[simp] theorem markHostFault_rxState (off : Offset) : (s.markHostFault off).rxState = s.rxState := rfl
@[simp] theorem markHostFault_txBusy (off : Offset) : (s.markHostFault off).txBusy = s.txBusy := rfl
@[simp] theorem markHostFault_data (off : Offset) : (s.markHostFault off).data = s.data := rfl
@[simp] theorem markHostFault_rxBuf (off : Offset) : (s.markHostFault off).rxBuf = s.rxBuf := rfl
@[simp] theorem markHostFault_txBuf (off : Offset) : (s.markHostFault off).txBuf = s.txBuf := rfl
@[simp] theorem markHostFault_bufCap (off : Offset) : (s.markHostFault off).bufCap = s.bufCap := rfl
@[simp] theorem markHostFault_env (off : Offset) : (s.markHostFault off).env = s.env.afterBusError off := rfl
@[simp] theorem markHostFault_codec (off : Offset) : (s.markHostFault off).codec = s.codec := rfl
@[simp] theorem markHostFault_dataPrefix (off : Offset) (len : Nat) : (s.markHostFault off).dataPrefix len = s.dataPrefix len := rfl

/-! ### `State.afterPop` -/

@[simp] theorem afterPop_statusCode : (s.afterPop).statusCode = s.statusCode := rfl
@[simp] theorem afterPop_arg0 : (s.afterPop).arg0 = s.arg0 := rfl
@[simp] theorem afterPop_arg1 : (s.afterPop).arg1 = s.arg1 := rfl
@[simp] theorem afterPop_res0 : (s.afterPop).res0 = s.res0 := rfl
@[simp] theorem afterPop_res1 : (s.afterPop).res1 = s.res1 := rfl
@[simp] theorem afterPop_resLen : (s.afterPop).resLen = s.resLen := rfl
@[simp] theorem afterPop_lastError : (s.afterPop).lastError = s.lastError := rfl
@[simp] theorem afterPop_key0 : (s.afterPop).key0 = s.key0 := rfl
@[simp] theorem afterPop_key1 : (s.afterPop).key1 = s.key1 := rfl
@[simp] theorem afterPop_key2 : (s.afterPop).key2 = s.key2 := rfl
@[simp] theorem afterPop_key3 : (s.afterPop).key3 = s.key3 := rfl
@[simp] theorem afterPop_profile : (s.afterPop).profile = s.profile := rfl
@[simp] theorem afterPop_sync : (s.afterPop).sync = s.sync := rfl
@[simp] theorem afterPop_maxPayload : (s.afterPop).maxPayload = s.maxPayload := rfl
@[simp] theorem afterPop_txCounter : (s.afterPop).txCounter = s.txCounter := rfl
@[simp] theorem afterPop_lastAccepted : (s.afterPop).lastAccepted = s.lastAccepted := rfl
@[simp] theorem afterPop_packetsSent : (s.afterPop).packetsSent = s.packetsSent := rfl
@[simp] theorem afterPop_packetsReceived : (s.afterPop).packetsReceived = s.packetsReceived := rfl
@[simp] theorem afterPop_errorsDetected : (s.afterPop).errorsDetected = s.errorsDetected := rfl
@[simp] theorem afterPop_rxLen : (s.afterPop).rxLen = s.rxLen := rfl
@[simp] theorem afterPop_txDone : (s.afterPop).txDone = s.txDone := rfl
@[simp] theorem afterPop_irqEnable : (s.afterPop).irqEnable = s.irqEnable := rfl
@[simp] theorem afterPop_rk : (s.afterPop).rk = s.rk := rfl
@[simp] theorem afterPop_initDone : (s.afterPop).initDone = s.initDone := rfl
@[simp] theorem afterPop_rxState : (s.afterPop).rxState = s.rxState := rfl
@[simp] theorem afterPop_txBusy : (s.afterPop).txBusy = s.txBusy := rfl
@[simp] theorem afterPop_data : (s.afterPop).data = s.data := rfl
@[simp] theorem afterPop_rxBuf : (s.afterPop).rxBuf = s.rxBuf := rfl
@[simp] theorem afterPop_txBuf : (s.afterPop).txBuf = s.txBuf := rfl
@[simp] theorem afterPop_bufCap : (s.afterPop).bufCap = s.bufCap := rfl
@[simp] theorem afterPop_env : (s.afterPop).env = { s.env with pending := s.env.pending.tail } := rfl
@[simp] theorem afterPop_codec : (s.afterPop).codec = s.codec := rfl
@[simp] theorem afterPop_dataPrefix (len : Nat) : (s.afterPop).dataPrefix len = s.dataPrefix len := rfl

/-! ### The environment and the next event -/

@[simp] theorem afterArm_pending (e : Env) (ok : Bool) : (e.afterArm ok).pending = e.pending := rfl
@[simp] theorem afterArm_readData (e : Env) (ok : Bool) : (e.afterArm ok).readData = e.readData := rfl
@[simp] theorem afterArm_sendAnswers (e : Env) (ok : Bool) : (e.afterArm ok).sendAnswers = e.sendAnswers := rfl
@[simp] theorem afterArm_armAnswers (e : Env) (ok : Bool) : (e.afterArm ok).armAnswers = e.armAnswers.tail := rfl
@[simp] theorem afterArm_requests (e : Env) (ok : Bool) : (e.afterArm ok).requests = .arm ok :: e.requests := rfl
@[simp] theorem afterSend_pending (e : Env) (n : Nat) (ok : Bool) : (e.afterSend n ok).pending = e.pending := rfl
@[simp] theorem afterSend_readData (e : Env) (n : Nat) (ok : Bool) : (e.afterSend n ok).readData = e.readData := rfl
@[simp] theorem afterSend_armAnswers (e : Env) (n : Nat) (ok : Bool) : (e.afterSend n ok).armAnswers = e.armAnswers := rfl
@[simp] theorem afterSend_sendAnswers (e : Env) (n : Nat) (ok : Bool) :
    (e.afterSend n ok).sendAnswers = e.sendAnswers.tail := rfl
@[simp] theorem afterSend_requests (e : Env) (n : Nat) (ok : Bool) :
    (e.afterSend n ok).requests = .send n ok :: e.requests := rfl

@[simp] theorem afterArm_hostFaults (e : Env) (ok : Bool) : (e.afterArm ok).hostFaults = e.hostFaults := rfl
@[simp] theorem afterSend_hostFaults (e : Env) (n : Nat) (ok : Bool) : (e.afterSend n ok).hostFaults = e.hostFaults := rfl
@[simp] theorem afterBusError_pending (e : Env) (off : Offset) : (e.afterBusError off).pending = e.pending := rfl
@[simp] theorem afterBusError_readData (e : Env) (off : Offset) : (e.afterBusError off).readData = none := rfl
@[simp] theorem afterBusError_armAnswers (e : Env) (off : Offset) : (e.afterBusError off).armAnswers = e.armAnswers := rfl
@[simp] theorem afterBusError_sendAnswers (e : Env) (off : Offset) : (e.afterBusError off).sendAnswers = e.sendAnswers := rfl
@[simp] theorem afterBusError_requests (e : Env) (off : Offset) : (e.afterBusError off).requests = e.requests := rfl
@[simp] theorem afterBusError_hostFaults (e : Env) (off : Offset) :
    (e.afterBusError off).hostFaults = off :: e.hostFaults := rfl

/-- The answer to the next arm request depends on the environment alone. -/
theorem nextArmAnswer_congr {s t : State} (h : s.env = t.env) : s.nextArmAnswer = t.nextArmAnswer := by
  simp [State.nextArmAnswer, h]

/-- The answer to the next send request depends on the environment alone. -/
theorem nextSendAnswer_congr {s t : State} (h : s.env = t.env) : s.nextSendAnswer = t.nextSendAnswer := by
  simp [State.nextSendAnswer, h]

end Sys2Proof.Machine
end

