-- ==== Sys2Proof/Laws/Ops.lean ====
section
/-! SUPPORT. What each shared operation can do, said once: the end of a command, the requests to the transport, the parts
of the channel's commands, a register write, a host access, an event and a step. -/

namespace Sys2Proof.Machine

variable (s : State)

/-! ### Requests to the transport (45_channel.md R204) -/

/-- StartReceive leaves the receive side receiving or halted. -/
theorem startReceive_rxState_cases :
    s.startReceive.rxState = .receiving ∨ s.startReceive.rxState = .halted := by
  simp only [startReceive_rxState]; split <;> simp

/-- Everything StartReceive writes: RX_STATE, and the record of the request. -/
theorem startReceive_eq : s.startReceive =
    { s with
      rxState := if s.nextArmAnswer then .receiving else .halted
      env := s.env.afterArm s.nextArmAnswer } := rfl

/-- Everything a rejection by PROCESS_RX writes (45_channel.md R207). -/
theorem reject_eq (e : Status) : s.reject e =
    { s with
      errorsDetected := s.errorsDetected + 1
      lastError := e
      resLen := 0
      rxState := if s.nextArmAnswer then .receiving else .halted
      env := s.env.afterArm s.nextArmAnswer
      statusCode := e } := rfl

/-- Everything an acceptance by PROCESS_RX writes (45_channel.md R207, R208). -/
theorem deliver_eq (ctr : Word) (pl : List Byte) : s.deliver ctr pl =
    { s with
      lastAccepted := ctr
      packetsReceived := s.packetsReceived + 1
      data := s.data.writeBytes 0 pl
      res0 := ctr
      resLen := BitVec.ofNat 16 pl.length
      rxState := if s.nextArmAnswer then .receiving else .halted
      env := s.env.afterArm s.nextArmAnswer
      statusCode := .ok } := rfl

/-- Everything an INIT whose checks have passed writes but STATUS.CODE (45_channel.md R202). -/
theorem openChannel_eq : s.openChannel =
    { s with
      rk := keySchedule s.key0 s.key1 s.key2 s.key3
      initDone := true
      rxState := if s.nextArmAnswer then .receiving else .halted
      env := s.env.afterArm s.nextArmAnswer } := rfl

/-! ### Commands -/

/-- What a command that waits for INIT answers: NOT_READY before INIT, else its own effect (30_encoding.md R96). -/
theorem whenReady_cases {f : State → State} {t : State} (h : whenReady s f = .next t) :
    (s.initDone = false ∧ t = s.finish .notReady) ∨ (s.initDone = true ∧ t = f s) := by
  injection h with h
  cases hi : s.initDone <;> simp_all

/-- What INIT can do (45_channel.md R202). -/
theorem execInit_cases {t : State} (h : execInit s = .next t) :
    t = s.finish .invalidArgument
      ∨ (s.initDone = false ∧ profileLegal s.codec s.bufCap = true
          ∧ t = s.openChannel.finish (openCode s.openChannel)) := by
  injection h with h
  split at h
  · exact .inl h.symm
  · split at h
    · exact .inr ⟨by simp_all, by assumption, h.symm⟩
    · exact .inl h.symm

/-- What ENCRYPT can do (40_cipher.md R118). -/
theorem execEncrypt_cases {t : State} (h : execEncrypt s = .next t) :
    t = s.finish .notReady
      ∨ (s.initDone = true ∧ t = (s.setResult (encrypt s.rk ⟨s.arg0, s.arg1⟩).w0
          (encrypt s.rk ⟨s.arg0, s.arg1⟩).w1).finish .ok) := by
  rcases whenReady_cases s h with ⟨-, h⟩ | ⟨hi, h⟩
  · exact .inl h
  · exact .inr ⟨hi, h⟩

/-- What DECRYPT can do (40_cipher.md R119). -/
theorem execDecrypt_cases {t : State} (h : execDecrypt s = .next t) :
    t = s.finish .notReady
      ∨ (s.initDone = true ∧ t = (s.setResult (decrypt s.rk ⟨s.arg0, s.arg1⟩).w0
          (decrypt s.rk ⟨s.arg0, s.arg1⟩).w1).finish .ok) := by
  rcases whenReady_cases s h with ⟨-, h⟩ | ⟨hi, h⟩
  · exact .inl h
  · exact .inr ⟨hi, h⟩

/-- What CBC_MAC can do (42_cbc_mac.md R149). -/
theorem execCbcmac_cases {len : Nat} {t : State} (h : execCbcmac len s = .next t) :
    t = s.finish .notReady ∨ t = s.finish .invalidArgument
      ∨ (s.initDone = true ∧ len ≤ s.bufCap ∧ ∃ r0 r1, t = (s.setResult r0 r1).finish .ok) := by
  rcases whenReady_cases s h with ⟨-, h⟩ | ⟨hi, h⟩
  · exact .inl h
  · split at h
    · exact .inr (.inl h)
    · exact .inr (.inr ⟨hi, by omega, _, _, h⟩)

/-- What KEYED_HASH can do (41_keyed_hash.md R137). -/
theorem execKhash_cases {len : Nat} {t : State} (h : execKhash len s = .next t) :
    t = s.finish .notReady ∨ t = s.finish .invalidArgument
      ∨ (s.initDone = true ∧ len ≤ s.bufCap ∧ ∃ r0 r1, t = (s.setResult r0 r1).finish .ok) := by
  rcases whenReady_cases s h with ⟨-, h⟩ | ⟨hi, h⟩
  · exact .inl h
  · split at h
    · exact .inr (.inl h)
    · exact .inr (.inr ⟨hi, by omega, _, _, h⟩)

/-- What FRAME_ENCODE can do (43_frame_codec.md R172). -/
theorem execFenc_cases {len : Nat} {t : State} (h : execFenc len s = .next t) :
    t = s.finish .notReady ∨ t = s.failLength .tooLarge
      ∨ (s.initDone = true ∧ len ≤ s.codec.maxLen ∧ ∃ f : List Byte,
          f = s.codec.frameEncode s.arg0 (s.dataPrefix len)
          ∧ t = (State.setResLen { s with data := s.data.writeBytes 0 f, res0 := s.arg0 } f.length).finish .ok) := by
  rcases whenReady_cases s h with ⟨-, h⟩ | ⟨hi, h⟩
  · exact .inl h
  · split at h
    · exact .inr (.inl h)
    · exact .inr (.inr ⟨hi, by omega, _, rfl, h⟩)

/-- What FRAME_DECODE can do (43_frame_codec.md R173). -/
theorem execFdec_cases {len : Nat} {t : State} (h : execFdec len s = .next t) :
    t = s.finish .notReady ∨ (∃ e, t = s.failLength e)
      ∨ (s.initDone = true ∧ len ≤ s.bufCap ∧ ∃ (ctr : Word) (n : Nat) (pl : List Byte),
          s.codec.frameCheck (s.dataPrefix len) = .checked ctr n ∧ pl = s.codec.payloadOf (s.dataPrefix len) ctr n
          ∧ t = (State.setResLen { s with data := s.data.writeBytes 0 pl, res0 := ctr } pl.length).finish .ok) := by
  rcases whenReady_cases s h with ⟨-, h⟩ | ⟨hi, h⟩
  · exact .inl h
  · split at h
    · exact .inr (.inl ⟨_, h⟩)
    · rw [Codec.frameDecode] at h
      cases hc : s.codec.frameCheck (s.dataPrefix len) with
      | bad e => rw [hc] at h; exact .inr (.inl ⟨e, h⟩)
      | checked ctr n => rw [hc] at h; exact .inr (.inr ⟨hi, by omega, ctr, n, _, rfl, rfl, h⟩)

/-- What the hand-off of a built frame can do (45_channel.md R205, R234). -/
theorem handOff_cases (n : Nat) :
    (s.nextSendAnswer = false
        ∧ s.handOff n = State.failLength { s with env := s.env.afterSend n false } .transportFailure)
      ∨ (s.nextSendAnswer = true
        ∧ s.handOff n = (State.setResLen { s with
            env := s.env.afterSend n true, txBusy := true, packetsSent := s.packetsSent + 1 } n).finish .ok) := by
  cases h : s.nextSendAnswer
  · exact .inl ⟨rfl, by simp [State.handOff, h]⟩
  · exact .inr ⟨rfl, by simp [State.handOff, h]⟩

/-- What SEND can do (45_channel.md R205). -/
theorem execSend_cases {len : Nat} {t : State} (h : execSend len s = .next t) :
    t = s.finish .notReady ∨ (s.txBusy = true ∧ t = s.failLength .busy) ∨ t = s.failLength .tooLarge
      ∨ (s.initDone = true ∧ s.txBusy = false ∧ len ≤ s.codec.maxLen ∧ ∃ f : List Byte,
          f = s.codec.frameEncode (s.txCounter + 1) (s.dataPrefix len) ∧ t = (s.buildFrame f).handOff f.length) := by
  rcases whenReady_cases s h with ⟨-, h⟩ | ⟨hi, h⟩
  · exact .inl h
  · split at h
    · exact .inr (.inl ⟨by assumption, h⟩)
    · split at h
      · exact .inr (.inr (.inl h))
      · exact .inr (.inr (.inr ⟨hi, by simp_all, by omega, _, rfl, h⟩))

/-- What PROCESS_RX can do (45_channel.md R207). -/
theorem execProcrx_cases {t : State} (h : execProcrx s = .next t) :
    t = s.finish .notReady
      ∨ (s.initDone = true ∧ s.rxState = .frameReady
          ∧ ((∃ e, s.codec.frameCheck s.received = .bad e ∧ t = s.reject e)
            ∨ ∃ ctr n, s.codec.frameCheck s.received = .checked ctr n
              ∧ ((accepts s.lastAccepted ctr = false ∧ t = s.reject .replay)
                ∨ (accepts s.lastAccepted ctr = true
                  ∧ t = s.deliver ctr (s.codec.payloadOf s.received ctr n))))) := by
  rcases whenReady_cases s h with ⟨-, h⟩ | ⟨hi, h⟩
  · exact .inl h
  · split at h
    next hr =>
      refine .inr ⟨hi, hr, ?_⟩
      cases hc : s.codec.frameCheck s.received with
      | bad e => rw [hc] at h; exact .inl ⟨e, rfl, h⟩
      | checked ctr n =>
        rw [hc] at h
        refine .inr ⟨ctr, n, rfl, ?_⟩
        cases ha : accepts s.lastAccepted ctr
        · exact .inl ⟨rfl, by simpa [ha] using h⟩
        · exact .inr ⟨rfl, by simpa [ha] using h⟩
    next => exact .inl h

/-! ### The transport's events (45_channel.md R231, R233, R235) -/

/-- What a received byte can do. -/
theorem rxByte_cases (i : Nat) (b : Byte) :
    (rxByte i b s = s ∧ ¬ (s.rxState = .receiving ∧ i < s.bufCap))
      ∨ (s.rxState = .receiving ∧ i < s.bufCap ∧ rxByte i b s = { s with rxBuf := s.rxBuf.write i b }) := by
  rw [rxByte]; split
  next h => exact .inr ⟨h.1, h.2, rfl⟩
  next h => exact .inl ⟨rfl, h⟩

/-- What a boundary can do: nothing when it is stray, a runt, or a ready frame. -/
theorem boundary_cases (n : Nat) :
    (boundary n s = s ∧ s.rxState ≠ .receiving)
      ∨ (s.rxState = .receiving ∧ min n s.bufCap < s.codec.minFrame
          ∧ boundary n s = { s with
              errorsDetected := s.errorsDetected + 1
              lastError := .tooShort
              rxState := if s.nextArmAnswer then .receiving else .halted
              env := s.env.afterArm s.nextArmAnswer })
      ∨ (s.rxState = .receiving ∧ s.codec.minFrame ≤ min n s.bufCap
          ∧ boundary n s = { s with rxLen := BitVec.ofNat 16 (min n s.bufCap), rxState := .frameReady }) := by
  rw [boundary]; split
  · split
    next h => exact .inr (.inl ⟨by assumption, h, rfl⟩)
    next h => exact .inr (.inr ⟨by assumption, by omega, rfl⟩)
  · exact .inl ⟨rfl, by assumption⟩

/-- What a send-complete event can do. -/
theorem sendComplete_cases :
    (s.txBusy = false ∧ sendComplete s = s)
      ∨ (s.txBusy = true ∧ sendComplete s = { s with txBusy := false, txDone := true }) := by
  rw [sendComplete]; split
  · exact .inr ⟨by assumption, rfl⟩
  · exact .inl ⟨by simp_all, rfl⟩

/-! ### Register writes (10_state.md R22, 20_memory.md R64) -/

@[simp] theorem writeReg_statusCode (r : Reg) (v : Word) : (writeReg s r v).statusCode = s.statusCode := by
  cases r <;> simp only [writeReg] <;> repeat (split <;> rfl)
@[simp] theorem writeReg_res0 (r : Reg) (v : Word) : (writeReg s r v).res0 = s.res0 := by
  cases r <;> simp only [writeReg] <;> repeat (split <;> rfl)
@[simp] theorem writeReg_res1 (r : Reg) (v : Word) : (writeReg s r v).res1 = s.res1 := by
  cases r <;> simp only [writeReg] <;> repeat (split <;> rfl)
@[simp] theorem writeReg_resLen (r : Reg) (v : Word) : (writeReg s r v).resLen = s.resLen := by
  cases r <;> simp only [writeReg] <;> repeat (split <;> rfl)
@[simp] theorem writeReg_lastError (r : Reg) (v : Word) : (writeReg s r v).lastError = s.lastError := by
  cases r <;> simp only [writeReg] <;> repeat (split <;> rfl)
@[simp] theorem writeReg_txCounter (r : Reg) (v : Word) : (writeReg s r v).txCounter = s.txCounter := by
  cases r <;> simp only [writeReg] <;> repeat (split <;> rfl)
@[simp] theorem writeReg_lastAccepted (r : Reg) (v : Word) : (writeReg s r v).lastAccepted = s.lastAccepted := by
  cases r <;> simp only [writeReg] <;> repeat (split <;> rfl)
@[simp] theorem writeReg_packetsSent (r : Reg) (v : Word) : (writeReg s r v).packetsSent = s.packetsSent := by
  cases r <;> simp only [writeReg] <;> repeat (split <;> rfl)
@[simp] theorem writeReg_packetsReceived (r : Reg) (v : Word) : (writeReg s r v).packetsReceived = s.packetsReceived := by
  cases r <;> simp only [writeReg] <;> repeat (split <;> rfl)
@[simp] theorem writeReg_errorsDetected (r : Reg) (v : Word) : (writeReg s r v).errorsDetected = s.errorsDetected := by
  cases r <;> simp only [writeReg] <;> repeat (split <;> rfl)
@[simp] theorem writeReg_rxLen (r : Reg) (v : Word) : (writeReg s r v).rxLen = s.rxLen := by
  cases r <;> simp only [writeReg] <;> repeat (split <;> rfl)
@[simp] theorem writeReg_rk (r : Reg) (v : Word) : (writeReg s r v).rk = s.rk := by
  cases r <;> simp only [writeReg] <;> repeat (split <;> rfl)
@[simp] theorem writeReg_initDone (r : Reg) (v : Word) : (writeReg s r v).initDone = s.initDone := by
  cases r <;> simp only [writeReg] <;> repeat (split <;> rfl)
@[simp] theorem writeReg_rxState (r : Reg) (v : Word) : (writeReg s r v).rxState = s.rxState := by
  cases r <;> simp only [writeReg] <;> repeat (split <;> rfl)
@[simp] theorem writeReg_txBusy (r : Reg) (v : Word) : (writeReg s r v).txBusy = s.txBusy := by
  cases r <;> simp only [writeReg] <;> repeat (split <;> rfl)
@[simp] theorem writeReg_data (r : Reg) (v : Word) : (writeReg s r v).data = s.data := by
  cases r <;> simp only [writeReg] <;> repeat (split <;> rfl)
@[simp] theorem writeReg_rxBuf (r : Reg) (v : Word) : (writeReg s r v).rxBuf = s.rxBuf := by
  cases r <;> simp only [writeReg] <;> repeat (split <;> rfl)
@[simp] theorem writeReg_txBuf (r : Reg) (v : Word) : (writeReg s r v).txBuf = s.txBuf := by
  cases r <;> simp only [writeReg] <;> repeat (split <;> rfl)
@[simp] theorem writeReg_bufCap (r : Reg) (v : Word) : (writeReg s r v).bufCap = s.bufCap := by
  cases r <;> simp only [writeReg] <;> repeat (split <;> rfl)
@[simp] theorem writeReg_env (r : Reg) (v : Word) : (writeReg s r v).env = s.env := by
  cases r <;> simp only [writeReg] <;> repeat (split <;> rfl)

/-- A locked configuration does not change (10_state.md R31). -/
theorem writeReg_locked (h : s.initDone = true) (r : Reg) (v : Word) : (writeReg s r v).codec = s.codec := by
  cases r <;> simp only [writeReg, h, if_true] <;> first | rfl | (split <;> rfl)

/-! ### Host accesses (20_memory.md R61-R65) -/

/-- The register at an offset is the one whose row of the map names it. -/
theorem regAt_mem {off : Nat} {r : Reg} (h : regAt off = some r) : (off, r) ∈ regMap := by
  obtain ⟨row, hrow, hr⟩ := Option.map_eq_some_iff.mp h
  have hoff : row.1 = off := by simpa using List.find?_some hrow
  have hmem := List.mem_of_find?_eq_some hrow
  rwa [← hoff, ← hr]

/-- An access reaches CMD exactly when it is 32 bits wide at CMD's offset. -/
theorem accessTarget_cmd {bufCap width : Nat} {off : Offset} :
    accessTarget bufCap width off = some (.reg .cmd) ↔ width = 32 ∧ off = cmdOffset := by
  constructor
  · intro h
    rw [accessTarget] at h
    split at h
    · contradiction
    next hw =>
      refine ⟨by omega, ?_⟩
      cases hr : regAt off.toNat with
      | none => rw [hr] at h; simp only at h; split at h <;> simp_all
      | some r =>
        rw [hr] at h
        obtain rfl : r = .cmd := by simpa using h
        have := regAt_mem hr
        apply BitVec.eq_of_toNat_eq
        simpa [regMap, cmdOffset] using this
  · rintro ⟨rfl, rfl⟩
    rfl

/-- An access that reaches the DATA window reaches a whole aligned word of it (R65). -/
theorem accessTarget_data {bufCap width : Nat} {off : Offset} {i : Nat}
    (h : accessTarget bufCap width off = some (.data i)) :
    width = 32 ∧ i % 4 = 0 ∧ i < bufCap ∧ off.toNat = dataBase + i := by
  rw [accessTarget] at h
  split at h
  · contradiction
  next hw =>
    cases hr : regAt off.toNat with
    | some r => rw [hr] at h; simp at h
    | none =>
      rw [hr] at h
      simp only at h
      split at h
      next hin =>
        simp only [Option.some.injEq, Target.data.injEq] at h
        simp only [dataBase] at hin h ⊢
        omega
      next => contradiction

/-- What a host write can do: a command, a register, or a word of DATA. -/
theorem hostWrite_cases {width : Nat} {off : Offset} {v : Word} {t : State} (h : hostWrite width off v s = .next t) :
    (width = 32 ∧ off = cmdOffset ∧ runCommand v s = .next t)
      ∨ (∃ r, r ≠ .cmd ∧ accessTarget s.bufCap width off = some (.reg r) ∧ t = writeReg s r v)
      ∨ (∃ i, accessTarget s.bufCap width off = some (.data i) ∧ t = writeDataWord s i v) := by
  rw [hostWrite] at h
  split at h
  · contradiction
  next ht =>
    obtain ⟨hw, ho⟩ := accessTarget_cmd.mp ht
    exact .inl ⟨hw, ho, h⟩
  next r hr ht => injection h with h; exact .inr (.inl ⟨r, hr, ht, h.symm⟩)
  next i ht => injection h with h; exact .inr (.inr ⟨i, ht, h.symm⟩)

/-- What a host read can do: it returns a word, and nothing of the engine changes. -/
theorem hostRead_cases {width : Nat} {off : Offset} {t : State} (h : hostRead width off s = .next t) :
    ∃ v, t = { s with env := { s.env with readData := some v } } := by
  rw [hostRead] at h
  split at h
  · contradiction
  · injection h with h; exact ⟨_, h.symm⟩

/-- What a command word can do (30_encoding.md R96). -/
theorem runCommand_cases {v : Word} {t : State} (h : runCommand v s = .next t) :
    (∃ i, decode v = .ok i ∧ exec i s = .next t) ∨ t = s.finish .illegalCommand := by
  rw [runCommand] at h
  split at h
  next i hd => exact .inl ⟨i, hd, h⟩
  next => injection h with h; exact .inr h.symm

/-! ### A step -/

@[simp] theorem settle_next (t : State) : settle s (.next t) = .next t := rfl
@[simp] theorem settle_busError (off : Offset) : settle s (.fault (.busError off)) = .next (s.markHostFault off) := rfl
@[simp] theorem settle_refused (why : Refusal) : settle s (.refused why) = .refused why := rfl

/-- What the settling of an event's answer can do: a next state stands, a bus error is marked on the host's run. -/
theorem settle_cases {r : Result} {t : State} (h : settle s r = .next t) :
    r = .next t ∨ ∃ off, r = .fault (.busError off) ∧ t = s.markHostFault off := by
  rcases r with u | ⟨⟨off⟩⟩ | why
  · exact .inl h
  · injection h with h; exact .inr ⟨off, rfl, h.symm⟩
  · contradiction

/-- What a step can do: nothing when no agent acts, else the next event, which a bus error may end. -/
theorem step_cases {t : State} (h : step s = .next t) :
    (s.env.pending = [] ∧ t = s) ∨ ∃ e rest, s.env.pending = e :: rest
      ∧ (runEvent e s.afterPop = .next t
        ∨ ∃ off, runEvent e s.afterPop = .fault (.busError off) ∧ t = s.afterPop.markHostFault off) := by
  rw [step, State.nextEvent] at h
  cases hp : s.env.pending with
  | nil => rw [hp] at h; injection h with h; exact .inl ⟨rfl, h.symm⟩
  | cons e rest =>
    rw [hp] at h
    refine .inr ⟨e, rest, rfl, settle_cases _ ?_⟩
    simpa [State.afterPop, hp] using h

/-- A step runs the event that is next. -/
theorem step_of_pending {e : Event} {rest : List Event} (h : s.env.pending = e :: rest) :
    step s = settle s.afterPop (runEvent e s.afterPop) := by
  simp [step, State.nextEvent, State.afterPop, h]

/-- A run of `k + 1` steps is a step and then a run of `k`. -/
theorem run_succ_cases (M : Host.Core) {k : Nat} {s t : M.State} (h : M.run (k + 1) s = .next t) :
    ∃ u, M.step s = .next u ∧ M.run k u = .next t := by
  simp only [Host.Core.run] at h
  split at h
  next u hs => exact ⟨u, hs, h⟩
  · contradiction
  · contradiction

end Sys2Proof.Machine
end

