-- ==== Sys2Proof/Laws/PerInstr.lean ====
section
/-! SUPPORT. The per-instruction family `EncodeFields`: the fields of each command's word (30_encoding.md R91). -/

namespace Sys2Proof.Laws.EncodeFields

/-- The opcode of a command (30_encoding.md R93). -/
def opcode : Instr → BitVec 8
  | .init => 0x01
  | .encrypt => 0x02
  | .decrypt => 0x03
  | .cbcmac _ => 0x04
  | .khash _ => 0x05
  | .fenc _ => 0x06
  | .fdec _ => 0x07
  | .send _ => 0x08
  | .procrx => 0x09

/-- The LEN operand of a command, 0 where it takes none (30_encoding.md R98). -/
def operand : Instr → Nat
  | .init => 0
  | .encrypt => 0
  | .decrypt => 0
  | .cbcmac len => len
  | .khash len => len
  | .fenc len => len
  | .fdec len => len
  | .send len => len
  | .procrx => 0

/-- The word of a well-formed command holds its opcode, RSVD = 0x00 and its LEN. -/
def Statement (i : Instr) : Prop :=
  i.wellFormed = true →
    cmdOp (encode i) = opcode i ∧ cmdRsvd (encode i) = 0 ∧ cmdLen (encode i) = operand i

/-- The opcode field of a command word. -/
theorem commandWord_op (len : Nat) (op : BitVec 8) : cmdOp (commandWord len op) = op := by
  ext j hj
  have : j < 32 := by omega
  simp [cmdOp, commandWord, show j < 16 by omega, this, hj]

/-- The reserved field of a command word. -/
theorem commandWord_rsvd (len : Nat) (op : BitVec 8) : cmdRsvd (commandWord len op) = 0 := by
  ext j hj
  simp [cmdRsvd, commandWord, show 8 + j < 16 by omega, show 8 + j < 32 by omega]

/-- The LEN field of a command word. -/
theorem commandWord_len {len : Nat} (h : lenFits len) (op : BitVec 8) : cmdLen (commandWord len op) = len := by
  have hf : (commandWord len op).extractLsb' 16 16 = BitVec.ofNat 16 len := by
    apply BitVec.eq_of_getLsbD_eq
    intro j hj
    simp [commandWord, hj, show 16 + j < 32 by omega, BitVec.getLsbD_of_ge op (16 + j) (by omega)]
  rw [cmdLen, hf, BitVec.toNat_ofNat, Nat.mod_eq_of_lt h]

theorem init : Statement .init := fun _ => ⟨commandWord_op 0 0x01, commandWord_rsvd 0 0x01, commandWord_len (by decide) 0x01⟩

theorem encrypt : Statement .encrypt := fun _ =>
  ⟨commandWord_op 0 0x02, commandWord_rsvd 0 0x02, commandWord_len (by decide) 0x02⟩

theorem decrypt : Statement .decrypt := fun _ =>
  ⟨commandWord_op 0 0x03, commandWord_rsvd 0 0x03, commandWord_len (by decide) 0x03⟩

theorem cbcmac (len : Nat) : Statement (.cbcmac len) := fun h =>
  ⟨commandWord_op len 0x04, commandWord_rsvd len 0x04, commandWord_len (of_decide_eq_true h) 0x04⟩

theorem khash (len : Nat) : Statement (.khash len) := fun h =>
  ⟨commandWord_op len 0x05, commandWord_rsvd len 0x05, commandWord_len (of_decide_eq_true h) 0x05⟩

theorem fenc (len : Nat) : Statement (.fenc len) := fun h =>
  ⟨commandWord_op len 0x06, commandWord_rsvd len 0x06, commandWord_len (of_decide_eq_true h) 0x06⟩

theorem fdec (len : Nat) : Statement (.fdec len) := fun h =>
  ⟨commandWord_op len 0x07, commandWord_rsvd len 0x07, commandWord_len (of_decide_eq_true h) 0x07⟩

theorem send (len : Nat) : Statement (.send len) := fun h =>
  ⟨commandWord_op len 0x08, commandWord_rsvd len 0x08, commandWord_len (of_decide_eq_true h) 0x08⟩

theorem procrx : Statement .procrx := fun _ =>
  ⟨commandWord_op 0 0x09, commandWord_rsvd 0 0x09, commandWord_len (by decide) 0x09⟩

end Sys2Proof.Laws.EncodeFields
end

