-- ==== Sys2Proof/Machine/Assembler.lean ====
section
/-! DEFINITION. The host assembly syntax, its pseudo-instructions and the scenario notation, as the events they stand for
(30_encoding.md R98-R100). -/

namespace Sys2Proof.Machine

/-- `wr OFF, VAL` (R98). -/
def wr (off : Offset) (v : Word) : Event := .hostWrite 32 off v

/-- `rd OFF` (R98). -/
def rd (off : Offset) : Event := .hostRead 32 off

/-- A command mnemonic: one write of its word to CMD (R98). -/
def command (i : Instr) : Event := wr cmdOffset (encode i)

/-- `setkey k0, k1, k2, k3` (R99). -/
def setkey (k0 k1 k2 k3 : Word) : List Event := [wr 0x020 k0, wr 0x024 k1, wr 0x028 k2, wr 0x02C k3]

/-- `setargs a0, a1` (R99). -/
def setargs (a0 a1 : Word) : List Event := [wr 0x008 a0, wr 0x00C a1]

/-- `setprofile p, s, m` (R99). -/
def setprofile (p s m : Word) : List Event := [wr 0x030 p, wr 0x034 s, wr 0x038 m]

/-- The whole words of `ldata` from word `i` up; a byte past the last is 0x00 (R99). -/
def ldataFrom : (words i : Nat) → List Byte → List Event
  | 0, _, _ => []
  | n + 1, i, bs => wr (BitVec.ofNat 12 (dataBase + 4 * i)) (le32 (bs.take 4)) :: ldataFrom n (i + 1) (bs.drop 4)

/-- `ldata b0 b1 …` (R99). -/
def ldata (bs : List Byte) : List Event := ldataFrom ((bs.length + 3) / 4) 0 bs

/-- `status` (R99). -/
def readStatus : Event := rd 0x004

/-- `ack_tx` (R99). -/
def ackTx : Event := wr 0x058 0x00000002

/-- `@rx i: b0 b1 …`: one RxByte event per byte, from index `i` upward (R100). -/
def rxBytes (i : Nat) : List Byte → List Event
  | [] => []
  | b :: bs => .rxByte i b :: rxBytes (i + 1) bs

end Sys2Proof.Machine
end

