-- ==== Sys2Proof/Tests/Slice0.lean ====
section
/-! SUPPORT. Tests of the model, each with the rule or the vector of 95_test_vectors.md that gives its expected value, and
for every statement with hypotheses a concrete case that meets them (`witness_…`). -/

namespace Sys2Proof.Tests

open Sys2Proof Sys2Proof.Machine

/-! ### Helpers -/

/-- The next state of a result, if it has one. -/
def nextOf : Result → Option State
  | .next s => some s
  | _ => none

/-- What a test looks at in the next state. -/
def seen {α : Type} (r : Result) (f : State → α) : Option α := (nextOf r).map f

/-- The bytes 0, 1, …, n - 1. -/
def upTo (n : Nat) : List Byte := (List.range n).map (BitVec.ofNat 8 ·)

/-- "HELLO". -/
def hello : List Byte := [0x48, 0x45, 0x4C, 0x4C, 0x4F]

/-- "ABCDEFGHIJ". -/
def letters : List Byte := [0x41, 0x42, 0x43, 0x44, 0x45, 0x46, 0x47, 0x48, 0x49, 0x4A]

/-- The frame of counter 1 and "HELLO" (95_test_vectors.md 1.9). -/
def helloFrame : List Byte :=
  [0xAA, 0x55, 0x01, 0x00, 0x00, 0x00, 0x05, 0x48, 0x45, 0x4C, 0x4C, 0x4F,
   0xB1, 0x2A, 0x41, 0x2E, 0x02, 0x21, 0xB2, 0xF8]

/-- The frame of counter 2 and "ABCDEFGHIJ" with ENC = 1 (95_test_vectors.md program 5). -/
def lettersFrame : List Byte :=
  [0xAA, 0x55, 0x02, 0x00, 0x00, 0x00, 0x0A, 0x0F, 0x60, 0x8B, 0x1A, 0x2F, 0xD9, 0x02, 0x67, 0x73, 0xBB, 0xE7, 0xF3,
   0x01, 0x22, 0x3A, 0x0F, 0xC9, 0x94]

/-- A buffer that holds these bytes from index 0 up. -/
def holding (bs : List Byte) : Memory := Memory.writeBytes [] 0 bs

/-- The engine after reset and `setkey` with key 00..0f, its transport accepting the next request. -/
def keyed : State :=
  { State.reset with
    key0 := 0x03020100
    key1 := 0x07060504
    key2 := 0x0B0A0908
    key3 := 0x0F0E0D0C
    env := { State.reset.env with armAnswers := [true], sendAnswers := [true] } }

/-- `keyed` after INIT. -/
def opened : State :=
  { keyed with
    rk := keySchedule 0x03020100 0x07060504 0x0B0A0908 0x0F0E0D0C
    initDone := true
    rxState := .receiving }

/-- `opened` with bytes in DATA. -/
def loaded (bs : List Byte) : State := { opened with data := holding bs }

/-- `opened` with a ready frame. -/
def ready (f : List Byte) : State :=
  { opened with rxState := .frameReady, rxBuf := holding f, rxLen := BitVec.ofNat 16 f.length }

/-- `opened` with a send outstanding. -/
def sending : State := { opened with txBusy := true, txBuf := holding helloFrame }

/-- `opened` with its receive direction halted. -/
def halted : State := { opened with rxState := .halted }

/-- A state with one more event to happen. -/
def onEvent (s : State) (e : Event) : State := s.pushEvent e

/-- `opened` with the published key of 95_test_vectors.md 1b. -/
def published (a0 a1 : Word) : State :=
  { opened with rk := keySchedule 0x03020100 0x0B0A0908 0x13121110 0x1B1A1918, arg0 := a0, arg1 := a1 }

/-! ### Well-formedness: an ill-formed term for each check (30_encoding.md R91, R92) -/

theorem test_wf_cbcmac : (Instr.cbcmac 65535).wellFormed = true ∧ (Instr.cbcmac 65536).wellFormed = false := by decide
theorem test_wf_khash : (Instr.khash 65535).wellFormed = true ∧ (Instr.khash 65536).wellFormed = false := by decide
theorem test_wf_fenc : (Instr.fenc 65535).wellFormed = true ∧ (Instr.fenc 65536).wellFormed = false := by decide
theorem test_wf_fdec : (Instr.fdec 65535).wellFormed = true ∧ (Instr.fdec 65536).wellFormed = false := by decide
theorem test_wf_send : (Instr.send 65535).wellFormed = true ∧ (Instr.send 65536).wellFormed = false := by decide

/-! ### Decoding: words written out from 30_encoding.md R91, R93 and the listings of 95_test_vectors.md -/

theorem test_decode_init : decodeTableWord 32 0x00000001 = some .init := by decide
theorem test_decode_encrypt : decodeTableWord 32 0x00000002 = some .encrypt := by decide
/-- 95_test_vectors.md 2.1: ENCRYPT ignores LEN. -/
theorem test_decode_encrypt_ignores_len : decodeTableWord 32 0xFFFF0002 = some .encrypt := by decide
theorem test_decode_decrypt : decodeTableWord 32 0x00000003 = some .decrypt := by decide
theorem test_decode_cbcmac : decodeTableWord 32 0x000F0004 = some (.cbcmac 15) := by decide
theorem test_decode_khash : decodeTableWord 32 0x01010005 = some (.khash 257) := by decide
theorem test_decode_fenc : decodeTableWord 32 0x00050006 = some (.fenc 5) := by decide
theorem test_decode_fdec : decodeTableWord 32 0x00140007 = some (.fdec 20) := by decide
theorem test_decode_send : decodeTableWord 32 0x00410008 = some (.send 65) := by decide
theorem test_decode_procrx : decodeTableWord 32 0x00000009 = some .procrx := by decide
/-- R94: OP = 0x00, OP = 0x0A and RSVD = 1 are illegal. -/
theorem test_decode_illegal :
    decodeTableWord 32 0x00000000 = none ∧ decodeTableWord 32 0x0000000A = none ∧ decodeTableWord 32 0x00000102 = none := by
  decide
/-- R98: a mnemonic stands for (LEN << 16) | OP. -/
theorem test_encode : encode (.send 65) = 0x00410008 ∧ encode (.fenc 5) = 0x00050006 ∧ encode .init = 0x00000001 := by
  decide

/-! ### Commands, one step each (95_test_vectors.md) -/

/-- Program 1: INIT with the arm accepted. -/
theorem test_init : seen (exec .init keyed) State.statusWord = some 0x00000300 := by decide +kernel
/-- Program 6, second part: INIT with the arm refused. -/
theorem test_init_refused :
    seen (exec .init { keyed with env := { keyed.env with armAnswers := [false] } }) State.statusWord = some 0x00002707 := by
  decide +kernel
/-- 2.1, first row. -/
theorem test_encrypt :
    seen (exec .encrypt (published 0x3B726574 0x7475432D)) (fun t => (t.res0, t.res1)) = some (0x8C6FA548, 0x454E028B) := by
  decide +kernel
/-- R96: before INIT, NOT_READY and nothing written. -/
theorem test_encrypt_not_ready : seen (exec .encrypt keyed) (fun t => (t.statusCode, t.res0)) = some (.notReady, 0) := by
  decide +kernel
/-- 2.1, second row. -/
theorem test_decrypt :
    seen (exec .decrypt (published 0x8C6FA548 0x454E028B)) (fun t => (t.res0, t.res1)) = some (0x3B726574, 0x7475432D) := by
  decide +kernel
/-- 2.1, decrypt of zero. -/
theorem test_decrypt_zero :
    seen (exec .decrypt opened) (fun t => (t.res0, t.res1)) = some (0x8F18D78E, 0xE53F38F9) := by decide +kernel
/-- 2.3, "HELLO". -/
theorem test_cbcmac : seen (exec (.cbcmac 5) (loaded hello)) (fun t => (t.res0, t.res1)) = some (0x426CBE73, 0xED04F998) := by
  decide +kernel
/-- 2.3, n = 16: two whole blocks, no padding. -/
theorem test_cbcmac_two_blocks :
    seen (exec (.cbcmac 16) (loaded (upTo 16))) (fun t => (t.res0, t.res1)) = some (0xEEFDC999, 0xCFB7B9E6) := by
  decide +kernel
/-- 2.2, n = 15, the published vector. -/
theorem test_khash :
    seen (exec (.khash 15) (loaded (upTo 15))) (fun t => (t.res0, t.res1)) = some (0x49BE45E5, 0xA129CA61) := by
  decide +kernel
/-- 2.2: a length above BUF_CAP. -/
theorem test_khash_too_long : seen (exec (.khash 257) opened) State.statusCode = some .invalidArgument := by decide +kernel
/-- 1.9: the HELLO frame. -/
theorem test_fenc :
    seen (exec (.fenc 5) { loaded hello with arg0 := 1 }) (fun t => (t.resLen, t.data.readBytes 0 20))
      = some (20, helloFrame) := by decide +kernel
/-- Program 5: the encrypted frame, with a partial last block. -/
theorem test_fenc_encrypted :
    seen (exec (.fenc 10) { loaded letters with arg0 := 2, profile := 0x24 }) (fun t => t.data.readBytes 0 25)
      = some lettersFrame := by decide +kernel
/-- Program 5: the way back; the bytes after the payload stay. -/
theorem test_fdec :
    seen (exec (.fdec 25) { loaded lettersFrame with profile := 0x24 }) (fun t => (t.res0, t.resLen, t.data.readBytes 0 12))
      = some (2, 10, letters ++ [0x1A, 0x2F]) := by decide +kernel
/-- 2.4.2, profile 0x38: big-endian counter and 2-byte length. -/
theorem test_frame_big_endian :
    ({ opened with profile := 0x38 } : State).codec.frameEncode 0x01020304 [0x48, 0x49]
      = [0xAA, 0x55, 0x01, 0x02, 0x03, 0x04, 0x00, 0x02, 0x48, 0x49, 0x9F, 0xBC, 0x11, 0xA6, 0x8F, 0xED, 0xB4, 0x83] := by
  decide +kernel
/-- 1.5: one byte short. -/
theorem test_fdec_short :
    seen (exec (.fdec 19) (loaded helloFrame)) (fun t => (t.statusCode, t.resLen)) = some (.badLength, 0) := by
  decide +kernel
/-- Program 2: the first send. -/
theorem test_send :
    seen (exec (.send 5) (loaded hello)) (fun t => (t.statusWord, t.txCounter, t.packetsSent, t.txBuf.readBytes 0 20))
      = some (0x00000B00, 1, 1, helloFrame) := by decide +kernel
/-- Program 2: BUSY comes before TOO_LARGE. -/
theorem test_send_busy : seen (exec (.send 65) sending) State.statusWord = some 0x00000B06 := by decide +kernel
/-- Program 3: the first frame. -/
theorem test_procrx :
    seen (exec .procrx (ready helloFrame)) (fun t => (t.statusWord, t.res0, t.resLen, t.data.readBytes 0 5))
      = some (0x00000300, 1, 5, hello) := by decide +kernel
/-- Program 3: a counter that is not above the last one. -/
theorem test_procrx_replay :
    seen (exec .procrx { ready helloFrame with lastAccepted := 1 }) (fun t => (t.statusWord, t.lastError, t.errorsDetected))
      = some (0x00000305, .replay, 1) := by decide +kernel

/-! ### The window and the transport's events -/

/-- R65: byte j of a DATA word is its bits [8j+7:8j]. -/
theorem test_data_window :
    seen (runEvent (wr 0x100 0x4C4C4548) State.reset) (fun t => t.data.readBytes 0 5) = some [0x48, 0x45, 0x4C, 0x4C, 0x00] := by
  decide +kernel
/-- R281: reading the profile registers after reset. -/
theorem test_read_profile : seen (runEvent (rd 0x030) State.reset) (fun t => t.env.readData) = some (some 0x20) := by
  decide +kernel
/-- Program 3: a runt of 3 bytes. -/
theorem test_runt :
    seen (runEvent (.boundary 3) opened) (fun t => (t.errorsDetected, t.lastError, t.rxLen, t.rxState))
      = some (1, .tooShort, 0, .receiving) := by decide +kernel
/-- Program 2: TX_DONE, and its acknowledgement. -/
theorem test_send_complete :
    seen (runEvent .sendComplete { sending with irqEnable := 2 }) (fun t => (t.irqStatus, t.irq)) = some (2, true) := by
  decide +kernel
theorem test_ack_tx : seen (runEvent ackTx { sending with txDone := true }) (fun t => t.irqStatus) = some 0 := by
  decide +kernel
/-- R98: the run of a command word placed by `State.withFetchWord`. -/
theorem test_withFetchWord : seen (step (keyed.withFetchWord 32 0x00000001)) State.initDone = some true := by decide +kernel

/-- R63: a read of an unmapped offset faults the host, and the engine runs the command that follows. -/
theorem test_bus_error :
    seen (step (onEvent (onEvent keyed (command .init)) (rd 0x03C))) (fun t => (t.env.hostFaults, seen (step t) State.initDone))
      = some ([0x03C], some true) := by decide +kernel

/-! ### Witnesses: the hypotheses of each statement can be met, clause by clause -/

/-- The opened engine, and the same with a ready frame, meet the invariant. -/
theorem ready_inv : (ready helloFrame).Inv where
  cap := by decide
  data := ⟨by decide, by decide⟩
  rxBuf := ⟨by decide +kernel, by decide +kernel⟩
  txBuf := ⟨by decide, by decide⟩
  resLen := by decide
  rxLen := by decide
  ready := by decide
  lastError := rfl
  unopened := fun h => absurd h (by decide)
  opened := fun _ => ⟨by decide +kernel, rfl, by decide⟩

theorem opened_inv : opened.Inv where
  cap := by decide
  data := ⟨by decide, by decide⟩
  rxBuf := ⟨by decide, by decide⟩
  txBuf := ⟨by decide, by decide⟩
  resLen := by decide
  rxLen := by decide
  ready := by decide
  lastError := rfl
  unopened := fun h => absurd h (by decide)
  opened := fun _ => ⟨by decide +kernel, rfl, by decide⟩

/-- `keyed` meets the invariant: nothing is open yet. -/
theorem keyed_inv : keyed.Inv where
  cap := by decide
  data := ⟨by decide, by decide⟩
  rxBuf := ⟨by decide, by decide⟩
  txBuf := ⟨by decide, by decide⟩
  resLen := by decide
  rxLen := by decide
  ready := by decide
  lastError := rfl
  unopened := fun _ => ⟨rfl, rfl, rfl, rfl, rfl, rfl, rfl, rfl, rfl, rfl, rfl, rfl, rfl⟩
  opened := fun h => absurd h (by decide)

theorem witness_DecodeEncodeAgree : (Instr.send 65535).wellFormed = true := by decide
theorem witness_DecodedWordIsReencoded :
    decode 0xFFFF0008 = .ok (.send 65535) ∧ Instr.send 65535 ≠ .init ∧ Instr.send 65535 ≠ .encrypt
      ∧ Instr.send 65535 ≠ .decrypt ∧ Instr.send 65535 ≠ .procrx := by decide
theorem witness_EveryWordIsACommandOrIllegal :
    (0xFFFF0009 : Word).extractLsb' 0 16 = (0x00000009 : Word).extractLsb' 0 16
      ∧ (0xFFFF0009 : Word).extractLsb' 0 8 = 0x09 := by decide
theorem witness_IllegalWordChangesOnlyStatus :
    (onEvent opened (wr 0x000 0x00000102)).env.pending = [.hostWrite 32 cmdOffset 0x00000102]
      ∧ (0x00000102 : Word).extractLsb' 8 8 ≠ 0 ∧ (0xFFFF0000 : Word).extractLsb' 0 8 = 0
      ∧ 0x0A ≤ ((0x0000000A : Word).extractLsb' 0 8).toNat := by decide
theorem witness_DispatchOrder :
    illegalWord 0x0000000A ∧ ¬ illegalWord 0x00000009 ∧ (0x00000009 : Word).extractLsb' 0 8 ≠ 0x01
      ∧ State.reset.initDone = false ∧ ¬ illegalWord 0x00000001 ∧ opened.initDone = true := by decide
theorem witness_StepRunsDecodedCommand :
    (onEvent opened (wr 0x000 0xFFFF0008)).env.pending = [.hostWrite 32 cmdOffset 0xFFFF0008]
      ∧ decode 0xFFFF0008 = .ok (.send 65535) ∧ (Instr.send 65535).wellFormed = true := by decide
theorem witness_StepTakesEventsInOrder :
    State.reset.env.pending = [] ∧ (onEvent State.reset .sendComplete).env.pending = [.sendComplete]
      ∧ (∃ t, runEvent .sendComplete State.reset = .next t)
      ∧ runEvent (rd 0x03C) State.reset = .fault (.busError 0x03C) := ⟨by decide, by decide, ⟨_, rfl⟩, rfl⟩
theorem witness_OnlyCommandsWriteStatusCode :
    ∃ t, step (onEvent keyed (command .encrypt)) = .next t ∧ t.statusCode ≠ (onEvent keyed (command .encrypt)).statusCode :=
  ⟨_, rfl, by decide⟩
theorem witness_CipherCommandsWriteTheirResult : opened.initDone = true := by decide
theorem witness_HashTakesWordsByIndex :
    ∃ (a0 a1 a2 a3 : DWord) (t f : HashState),
      a0 = (hashInit 0 0).v0 + (hashInit 0 0).v1 ∧ a1 = (hashInit 0 0).v1.rotateLeft 13 ^^^ a0
      ∧ a2 = (hashInit 0 0).v2 + (hashInit 0 0).v3 ∧ a3 = (hashInit 0 0).v3.rotateLeft 16 ^^^ a2
      ∧ t = sipRound (sipRound (hashInit 0 0)) ∧ f = hashFinish (hashWord (hashInit 0 0) 0) :=
  ⟨_, _, _, _, _, _, rfl, rfl, rfl, rfl, rfl, rfl⟩
theorem witness_ProfileQuantities : opened.codec.profile = 0x20 ∧ opened.codec.maxPayload = 64 := by decide
theorem witness_KhashWritesTheTag : opened.initDone = true ∧ 256 ≤ opened.bufCap ∧ opened.bufCap < 257 := by decide
theorem witness_CbcmacWritesTheTag : opened.initDone = true ∧ 256 ≤ opened.bufCap ∧ opened.bufCap < 257 := by decide
theorem witness_CipherRunsItsRoundsInOrder : 0 < 27 ∧ 26 < 27 := by decide
theorem witness_SerializationByByte : (0 : Nat) < 4 ∧ (3 : Nat) < 4 := by decide
theorem witness_FrameLayout : ∃ f, f = opened.codec.frameEncode 1 hello := ⟨_, rfl⟩
theorem witness_MacPaddingMakesWholeBlocks :
    (upTo 8).length % 8 = 0 ∧ upTo 8 ≠ [] ∧ (upTo 7).length % 8 ≠ 0 := by decide
theorem witness_SyncMarkerComparedExactly :
    opened.codec.minFrame ≤ (List.replicate 15 (0xAA : Byte)).length ∧ 1 < opened.codec.syncLen
      ∧ (List.replicate 15 (0xAA : Byte))[1]? ≠ some (opened.codec.sync.extractLsb' (8 * 1) 8) := by decide
theorem witness_PayloadEncryptionByBlock :
    opened.codec.enc = false ∧ ({ opened with profile := 0x24 } : State).codec.enc = true
      ∧ 0 < letters.length / 8 ∧ 8 * (letters.length / 8) ≤ 8 ∧ 9 < letters.length := by decide
theorem witness_FrameRoundTrip :
    profileLegal opened.codec opened.bufCap = true ∧ (upTo 64).length ≤ opened.codec.maxLen := by decide +kernel
theorem witness_OnlyTheDeclaredExtentMatters : opened.codec.frameCheck helloFrame = .checked 1 5 := by decide +kernel
/-- Each outcome of FrameCheck occurs (R170, 95_test_vectors.md 1.5, 1.9). -/
theorem witness_FrameCheckOrder :
    opened.codec.frameCheck (upTo 14) = .bad .tooShort ∧ opened.codec.frameCheck (upTo 15) = .bad .badSync
      ∧ opened.codec.frameCheck (helloFrame.take 19) = .bad .badLength
      ∧ opened.codec.frameCheck (helloFrame.set 11 0x4E) = .bad .badAuth := by decide +kernel
theorem witness_FencWritesTheFrame :
    opened.initDone = true ∧ 64 ≤ opened.codec.maxLen ∧ opened.data.wf ∧ opened.codec.maxLen < 65 := by decide
theorem witness_FdecWritesThePayload :
    (loaded helloFrame).initDone = true ∧ (loaded helloFrame).data.wf
      ∧ (loaded helloFrame).codec.frameDecode ((loaded helloFrame).data.readBytes 0 20) = .frame 1 hello
      ∧ (loaded helloFrame).codec.frameDecode ((loaded helloFrame).data.readBytes 0 19) = .bad .badLength
      ∧ (loaded helloFrame).bufCap < 257 := by decide +kernel
theorem witness_FdecUndoesFenc : opened.Inv ∧ opened.initDone = true ∧ 64 ≤ opened.codec.maxLen :=
  ⟨opened_inv, by decide, by decide⟩
theorem witness_InitOpensTheChannel :
    keyed.initDone = false ∧ profileLegal keyed.codec keyed.bufCap = true ∧ opened.initDone = true
      ∧ profileLegal ({ keyed with maxPayload := 242 } : State).codec keyed.bufCap = false := by decide
theorem witness_SendHandsOverTheFrame :
    sending.initDone = true ∧ sending.txBusy = true ∧ opened.initDone = true ∧ opened.txBusy = false
      ∧ opened.codec.maxLen < 65 ∧ 64 ≤ opened.codec.maxLen ∧ opened.txBuf.wf := by decide
/-- Both ways of the guard: the bootstrap case, and the least counter above the last one. -/
theorem witness_ProcrxDeliversAnAcceptedFrame :
    (ready helloFrame).initDone = true ∧ (ready helloFrame).rxState = .frameReady ∧ (ready helloFrame).data.wf
      ∧ (ready helloFrame).codec.frameCheck ((ready helloFrame).rxBuf.readBytes 0 (ready helloFrame).rxLen.toNat)
          = .checked 1 5
      ∧ (ready helloFrame).lastAccepted = 0 := by decide +kernel
theorem witness_ProcrxDeliversAboveTheGuard :
    opened.codec.frameCheck (opened.codec.frameEncode 2 hello) = .checked 2 5 ∧ (1 : Word).toNat < (2 : Word).toNat := by
  decide +kernel
theorem witness_ProcrxDropsARejectedFrame :
    (ready (upTo 15)).rxState = .frameReady
      ∧ (ready (upTo 15)).codec.frameCheck ((ready (upTo 15)).rxBuf.readBytes 0 (ready (upTo 15)).rxLen.toNat) = .bad .badSync
      ∧ ({ ready helloFrame with lastAccepted := 1 } : State).lastAccepted ≠ 0 ∧ (1 : Word).toNat ≤ (1 : Word).toNat
      ∧ opened.initDone = true ∧ opened.rxState ≠ .frameReady := by decide +kernel
theorem witness_AcceptedFrameIsNotAcceptedAgain :
    ∃ t u, exec .procrx (ready helloFrame) = .next t ∧ t.statusCode = .ok ∧ t.res0 ≠ 0
      ∧ exec .procrx { t with rxState := .frameReady } = .next u :=
  ⟨_, _, rfl, by decide +kernel, by decide +kernel, rfl⟩
theorem witness_LastAcceptedNeverFallsInARun :
    (∀ e ∈ (onEvent (ready helloFrame) (command .procrx)).env.pending, e.isReset = false)
      ∧ ∃ t, Host.Core.run Sys2Proof.core 1 (onEvent (ready helloFrame) (command .procrx)) = .next t :=
  ⟨by decide, _, rfl⟩
theorem witness_OnlyProcrxMovesTheGuard :
    ∃ t, step (onEvent (ready helloFrame) (command .procrx)) = .next t
      ∧ t.lastAccepted ≠ (onEvent (ready helloFrame) (command .procrx)).lastAccepted :=
  ⟨_, rfl, by decide +kernel⟩
theorem witness_OnlySendAdvancesTheCounter :
    ∃ t, step (onEvent (loaded hello) (command (.send 5))) = .next t
      ∧ t.txCounter ≠ (onEvent (loaded hello) (command (.send 5))).txCounter :=
  ⟨_, rfl, by decide +kernel⟩
theorem witness_HealthCountersCountTheirEvents :
    (onEvent opened (.boundary 3)).env.pending = [.boundary 3] ∧ (Event.boundary 3).isReset = false
      ∧ ∃ t, step (onEvent opened (.boundary 3)) = .next t := ⟨by decide, by decide, _, rfl⟩
/-- `keyed` with one event to happen meets the invariant: no clause of it is about the events to come. -/
theorem keyed_event_inv (e : Event) : (onEvent keyed e).Inv where
  cap := keyed_inv.cap
  data := keyed_inv.data
  rxBuf := keyed_inv.rxBuf
  txBuf := keyed_inv.txBuf
  resLen := keyed_inv.resLen
  rxLen := keyed_inv.rxLen
  ready := keyed_inv.ready
  lastError := keyed_inv.lastError
  unopened := fun _ => ⟨rfl, rfl, rfl, rfl, rfl, rfl, rfl, rfl, rfl, rfl, rfl, rfl, rfl⟩
  opened := fun h => absurd (show keyed.initDone = true from h) (by decide)
theorem witness_ReceiveTransitions :
    (onEvent keyed (command .init)).Inv ∧ (onEvent keyed (command .init)).env.pending = [command .init]
      ∧ ∃ t, step (onEvent keyed (command .init)) = .next t ∧ t.rxState ≠ (onEvent keyed (command .init)).rxState :=
  ⟨keyed_event_inv _, by decide, _, rfl, by decide +kernel⟩
theorem witness_TransmitTransitions :
    (∃ t, step (onEvent (loaded hello) (command (.send 5))) = .next t
      ∧ (onEvent (loaded hello) (command (.send 5))).txBusy = false ∧ t.txBusy = true)
    ∧ ∃ t, step (onEvent sending .sendComplete) = .next t ∧ (onEvent sending .sendComplete).txBusy = true ∧ t.txBusy = false :=
  ⟨⟨_, rfl, by decide, by decide +kernel⟩, _, rfl, by decide, by decide⟩
theorem witness_HaltedReceptionStaysHalted :
    halted.initDone = true ∧ halted.rxState = .halted ∧ halted.resetNext = false
      ∧ ∃ t, step (onEvent halted (.boundary 20)) = .next t := ⟨by decide, by decide, by decide, _, rfl⟩
theorem witness_InFlightFrameIsStable :
    (onEvent sending (command (.send 5))).txBusy = true ∧ (onEvent sending (command (.send 5))).resetNext = false
      ∧ ∃ t, step (onEvent sending (command (.send 5))) = .next t := ⟨by decide, by decide, _, rfl⟩
theorem witness_TransportLeavesAReadyFrameAlone :
    (Event.boundary 3).isTransport = true ∧ (ready helloFrame).rxState = .frameReady
      ∧ ∃ t, step (onEvent { ready helloFrame with txDone := true } (.boundary 3)) = .next t :=
  ⟨by decide, by decide, _, rfl⟩
theorem witness_RxByteWritesOneByte : opened.rxBuf.wf ∧ opened.rxState = .receiving ∧ 255 < opened.bufCap := by decide
theorem witness_BoundaryRecordsOrRejects :
    (ready helloFrame).rxState ≠ .receiving ∧ opened.rxState = .receiving
      ∧ min 14 opened.bufCap < opened.codec.headerLen + opened.codec.tagLen
      ∧ opened.codec.headerLen + opened.codec.tagLen ≤ min 15 opened.bufCap := by decide
theorem witness_SendCompleteEndsTheSend : sending.txBusy = true ∧ opened.txBusy = false := by decide
/-- The last mapped and the first unmapped offset, a misaligned one and a narrow access. -/
theorem witness_BusErrorExactly :
    (onEvent opened (rd 0x1FC)).env.pending = [.hostRead 32 0x1FC] ∧ mappedOffset opened.bufCap 0x1FC
      ∧ ¬ mappedOffset opened.bufCap 0x200 ∧ ¬ mappedOffset opened.bufCap 0x03C ∧ ¬ mappedOffset opened.bufCap 0x102
      ∧ (onEvent opened (.hostWrite 8 0x008 0)).env.pending = [.hostWrite 8 0x008 0] := by decide
theorem witness_RegisterReads : ((0x060 : Offset), BitVec.ofNat 32 opened.bufCap) ∈ [((0x060 : Offset), (0x100 : Word))] := by
  decide
theorem witness_AccessTypes :
    (0x02C : Offset) ∈ [(0x000 : Offset), 0x020, 0x024, 0x028, 0x02C] ∧ opened.initDone = true
      ∧ (0x038 : Offset) ∈ [(0x020 : Offset), 0x024, 0x028, 0x02C, 0x030, 0x034, 0x038] := by decide
theorem witness_RegisterWrites : keyed.initDone = false := by decide
theorem witness_DataWindowWords :
    Config.LegalBufCap opened.bufCap ∧ opened.data.wf ∧ 63 < opened.bufCap / 4 := by decide
theorem witness_ReadsDoNotRevealTheKey : ∃ t, runEvent (.hostRead 32 0x020) opened = .next t := ⟨_, rfl⟩
theorem witness_ConfigurationIsLocked :
    opened.initDone = true ∧ (onEvent opened (wr 0x030 0)).resetNext = false
      ∧ ∃ t, step (onEvent opened (wr 0x030 0)) = .next t := ⟨by decide, by decide, _, rfl⟩
theorem witness_StepKeepsTheInvariant :
    (onEvent keyed (command .init)).Inv ∧ ∃ t, step (onEvent keyed (command .init)) = .next t :=
  ⟨keyed_event_inv _, _, rfl⟩

end Sys2Proof.Tests
end

section
/-! The lock on the configuration (10_state.md R31): the host's writes to it are ignored once INIT is done, and no event but
a reset touches it. -/

namespace Sys2Proof.Machine

section Lock
variable {s t : State}

/-! ### Writes to the locked registers -/

/-- The registers that INIT locks (10_state.md R31). -/
def configRegs : List Reg := [.key0, .key1, .key2, .key3, .profile, .sync, .maxPayload]

/-- A locked register ignores a write. -/
theorem writeReg_configRegs_of_initDone (hi : s.initDone = true) {r : Reg} (hr : r ∈ configRegs) (v : Word) :
    writeReg s r v = s := by
  simp only [configRegs, List.mem_cons, List.not_mem_nil, or_false] at hr
  rcases hr with rfl | rfl | rfl | rfl | rfl | rfl | rfl <;> simp [writeReg, hi]

/-- The offsets of the locked registers (10_state.md R22). -/
theorem accessTarget_configRegs (bufCap : Nat) {off : Offset}
    (hoff : off ∈ [(0x020 : Offset), 0x024, 0x028, 0x02C, 0x030, 0x034, 0x038]) :
    ∃ r ∈ configRegs, accessTarget bufCap 32 off = some (.reg r) := by
  simp only [List.mem_cons, List.not_mem_nil, or_false] at hoff
  rcases hoff with rfl | rfl | rfl | rfl | rfl | rfl | rfl
  · exact ⟨.key0, by decide, rfl⟩
  · exact ⟨.key1, by decide, rfl⟩
  · exact ⟨.key2, by decide, rfl⟩
  · exact ⟨.key3, by decide, rfl⟩
  · exact ⟨.profile, by decide, rfl⟩
  · exact ⟨.sync, by decide, rfl⟩
  · exact ⟨.maxPayload, by decide, rfl⟩

/-- A host write that reaches a register other than CMD is that register's write. -/
theorem hostWrite_of_accessTarget_reg {width : Nat} {off : Offset} {r : Reg} (v : Word)
    (ht : accessTarget s.bufCap width off = some (.reg r)) (hr : r ≠ .cmd) :
    hostWrite width off v s = .next (writeReg s r v) := by
  rw [hostWrite, ht]
  cases r with
  | cmd => contradiction
  | _ => rfl

/-! ### What every event but a reset keeps -/

/-- From `s` to `t` the lock and everything that it protects stay: the codec holds the key, the configuration and the key
schedule. -/
structure LockKept (s t : State) : Prop where
  initDone : t.initDone = s.initDone
  codec : t.codec = s.codec

/-- The state fields that a kept codec keeps. -/
theorem codec_eq_iff : t.codec = s.codec ↔
    t.profile = s.profile ∧ t.sync = s.sync ∧ t.maxPayload = s.maxPayload ∧ t.rk = s.rk
      ∧ t.key0 = s.key0 ∧ t.key1 = s.key1 ∧ t.key2 = s.key2 ∧ t.key3 = s.key3 := by
  simp only [State.codec, Codec.mk.injEq]

/-- The hand-off of a frame writes nothing that INIT locks. -/
theorem handOff_lockKept (s : State) (n : Nat) : LockKept s (s.handOff n) := by
  rcases handOff_cases s n with ⟨-, h⟩ | ⟨-, h⟩ <;> rw [h] <;> exact ⟨rfl, rfl⟩

/-- INIT is the one command that writes the lock and the key schedule, and once it is done it only reports an error
(45_channel.md R202). -/
theorem exec_lockKept (hi : s.initDone = true) {i : Instr} (h : exec i s = .next t) : LockKept s t := by
  cases i with
  | init =>
    rcases execInit_cases s h with rfl | ⟨hnot, -, -⟩
    · exact ⟨rfl, rfl⟩
    · rw [hi] at hnot; contradiction
  | encrypt => rcases execEncrypt_cases s h with rfl | ⟨-, rfl⟩ <;> exact ⟨rfl, rfl⟩
  | decrypt => rcases execDecrypt_cases s h with rfl | ⟨-, rfl⟩ <;> exact ⟨rfl, rfl⟩
  | cbcmac len => rcases execCbcmac_cases s h with rfl | rfl | ⟨-, -, r0, r1, rfl⟩ <;> exact ⟨rfl, rfl⟩
  | khash len => rcases execKhash_cases s h with rfl | rfl | ⟨-, -, r0, r1, rfl⟩ <;> exact ⟨rfl, rfl⟩
  | fenc len => rcases execFenc_cases s h with rfl | rfl | ⟨-, -, f, -, rfl⟩ <;> exact ⟨rfl, rfl⟩
  | fdec len => rcases execFdec_cases s h with rfl | ⟨e, rfl⟩ | ⟨-, -, ctr, n, pl, -, -, rfl⟩ <;> exact ⟨rfl, rfl⟩
  | send len =>
    rcases execSend_cases s h with rfl | ⟨-, rfl⟩ | rfl | ⟨-, -, -, f, -, rfl⟩
    · exact ⟨rfl, rfl⟩
    · exact ⟨rfl, rfl⟩
    · exact ⟨rfl, rfl⟩
    · obtain ⟨hinit, hcodec⟩ := handOff_lockKept (s.buildFrame f) f.length
      exact ⟨hinit, hcodec⟩
  | procrx =>
    rcases execProcrx_cases s h with rfl | ⟨-, -, ⟨e, -, rfl⟩ | ⟨ctr, n, -, ⟨-, rfl⟩ | ⟨-, rfl⟩⟩⟩ <;> exact ⟨rfl, rfl⟩

/-- No host write changes a locked configuration: a command keeps it, a register write is ignored where it would matter, and
the DATA window is apart from it. -/
theorem hostWrite_lockKept (hi : s.initDone = true) {width : Nat} {off : Offset} {v : Word}
    (h : hostWrite width off v s = .next t) : LockKept s t := by
  rcases hostWrite_cases s h with ⟨-, -, hcmd⟩ | ⟨r, -, -, rfl⟩ | ⟨i, -, rfl⟩
  · rcases runCommand_cases s hcmd with ⟨i, -, hexec⟩ | rfl
    · exact exec_lockKept hi hexec
    · exact ⟨rfl, rfl⟩
  · exact ⟨writeReg_initDone s r v, writeReg_locked s hi r v⟩
  · exact ⟨rfl, rfl⟩

/-- Only a reset opens the lock (10_state.md R31). -/
theorem runEvent_lockKept (hi : s.initDone = true) {e : Event} (he : e.isReset = false)
    (h : runEvent e s = .next t) : LockKept s t := by
  cases e with
  | hostRead width off =>
    obtain ⟨v, rfl⟩ := hostRead_cases s h
    exact ⟨rfl, rfl⟩
  | hostWrite width off v => exact hostWrite_lockKept hi h
  | rxByte i b =>
    injection h with h
    subst h
    rcases rxByte_cases s i b with ⟨h, -⟩ | ⟨-, -, h⟩ <;> rw [h] <;> exact ⟨rfl, rfl⟩
  | boundary n =>
    injection h with h
    subst h
    rcases boundary_cases s n with ⟨h, -⟩ | ⟨-, -, h⟩ | ⟨-, -, h⟩ <;> rw [h] <;> exact ⟨rfl, rfl⟩
  | sendComplete =>
    injection h with h
    subst h
    rcases sendComplete_cases s with ⟨-, h⟩ | ⟨-, h⟩ <;> rw [h] <;> exact ⟨rfl, rfl⟩
  | reset d => contradiction

/-- `State.resetNext` says whether the event at the head of the list is a reset. -/
theorem isReset_of_resetNext {e : Event} {rest : List Event} (hp : s.env.pending = e :: rest)
    (hr : s.resetNext = false) : e.isReset = false := by
  simpa [State.resetNext, hp] using hr

/-- A step that is no reset keeps a closed lock and what it protects. -/
theorem step_lockKept (hi : s.initDone = true) (hr : s.resetNext = false) (h : step s = .next t) : LockKept s t := by
  rcases step_cases s h with ⟨-, rfl⟩ | ⟨e, rest, hp, hrun | ⟨off, -, rfl⟩⟩
  · exact ⟨rfl, rfl⟩
  · obtain ⟨hinit, hcodec⟩ := runEvent_lockKept (s := s.afterPop) hi (isReset_of_resetNext hp hr) hrun
    exact ⟨hinit, hcodec⟩
  · exact ⟨rfl, rfl⟩

end Lock

/-- Settles O57: a write to a locked register is the write that `writeReg` ignores, and every step but a reset keeps the
lock and the codec. -/
theorem configurationIsLocked : Obligations.ConfigurationIsLocked := by
  intro s hi
  refine ⟨fun off v hoff => ?_, fun t hstep hr => ?_⟩
  · obtain ⟨r, hr, ht⟩ := accessTarget_configRegs s.bufCap hoff
    have hcmd : r ≠ .cmd := by rintro rfl; exact absurd hr (by decide)
    calc runEvent (.hostWrite 32 off v) s
        _ = .next (writeReg s r v) := hostWrite_of_accessTarget_reg v ht hcmd
        _ = .next s := by rw [writeReg_configRegs_of_initDone hi hr]
  · obtain ⟨hinit, hcodec⟩ := step_lockKept hi hr hstep
    obtain ⟨hprofile, hsync, hmax, hrk, hk0, hk1, hk2, hk3⟩ := codec_eq_iff.mp hcodec
    exact ⟨hinit.trans hi, hk0, hk1, hk2, hk3, hprofile, hsync, hmax, hrk⟩

end Sys2Proof.Machine
end

section
/-! Accesses that store nothing (20_memory.md R64): reads of the write-only registers, writes to the read-only and the locked
ones, and IRQ_STATUS, which only clears. -/

namespace Sys2Proof.Machine

section AccessTypes
variable {s : State}

/-! ### From an offset of the map to its register -/

/-- The register map is aligned and gives no offset twice (10_state.md R22). -/
theorem regMap_aligned_unique : ∀ row ∈ regMap, row.1 % 4 = 0 ∧ regAt row.1 = some row.2 := by decide

/-- A 32-bit access at an offset of the map reaches the register that stands there. -/
theorem accessTarget_of_mem_regMap (bufCap : Nat) {off : Offset} {r : Reg} (hm : (off.toNat, r) ∈ regMap) :
    accessTarget bufCap 32 off = some (.reg r) := by
  obtain ⟨hal, hr⟩ := regMap_aligned_unique _ hm
  simp [accessTarget, hal, hr]

/-- A 32-bit read at an offset of the map returns the register's word. -/
theorem hostRead_of_mem_regMap {off : Offset} {r : Reg} (hm : (off.toNat, r) ∈ regMap) :
    hostRead 32 off s = .next { s with env := { s.env with readData := some (readReg s r) } } := by
  rw [hostRead, accessTarget_of_mem_regMap _ hm]
  rfl

/-- A 32-bit write at an offset of the map, CMD's apart, is the register's write. -/
theorem hostWrite_of_mem_regMap {off : Offset} {r : Reg} (v : Word) (hm : (off.toNat, r) ∈ regMap) (hr : r ≠ .cmd) :
    hostWrite 32 off v s = .next (writeReg s r v) :=
  hostWrite_of_accessTarget_reg v (accessTarget_of_mem_regMap _ hm) hr

/-! ### The access types -/

/-- The write-only registers (10_state.md R22). -/
def writeOnlyRegs : List Reg := [.cmd, .key0, .key1, .key2, .key3]

/-- The read-only registers (10_state.md R22). -/
def readOnlyRegs : List Reg :=
  [.status, .res0, .res1, .resLen, .lastError, .txCounter, .lastAccepted, .packetsSent, .packetsReceived, .errorsDetected,
   .rxLen, .bufcap]

/-- A write-only register reads 0. -/
theorem readReg_writeOnlyRegs {r : Reg} (hr : r ∈ writeOnlyRegs) : readReg s r = 0 := by
  simp only [writeOnlyRegs, List.mem_cons, List.not_mem_nil, or_false] at hr
  rcases hr with rfl | rfl | rfl | rfl | rfl <;> rfl

/-- A read-only register ignores a write. -/
theorem writeReg_readOnlyRegs {r : Reg} (hr : r ∈ readOnlyRegs) (v : Word) : writeReg s r v = s := by
  simp only [readOnlyRegs, List.mem_cons, List.not_mem_nil, or_false] at hr
  rcases hr with rfl | rfl | rfl | rfl | rfl | rfl | rfl | rfl | rfl | rfl | rfl | rfl <;> rfl

/-- Bit 1 of a word written to IRQ_STATUS clears TX_DONE; no other bit does anything (10_state.md R42). -/
theorem writeReg_irqStatus (v : Word) :
    writeReg s .irqStatus v = { s with txDone := s.txDone && !v.getLsbD 1 } := by
  rw [writeReg]
  cases v.getLsbD 1 <;> simp

/-- The offsets of the write-only registers. -/
theorem writeOnlyRegs_offsets : ∀ off ∈ [(0x000 : Offset), 0x020, 0x024, 0x028, 0x02C],
    ∃ r ∈ writeOnlyRegs, (off.toNat, r) ∈ regMap := by simp [writeOnlyRegs, regMap]

/-- The offsets of the read-only registers. -/
theorem readOnlyRegs_offsets :
    ∀ off ∈ [(0x004 : Offset), 0x010, 0x014, 0x018, 0x01C, 0x040, 0x044, 0x048, 0x04C, 0x050, 0x054, 0x060],
      ∃ r ∈ readOnlyRegs, (off.toNat, r) ∈ regMap := by simp [readOnlyRegs, regMap]

end AccessTypes

/-- Settles O53: each offset of a list is that of a register of its access type, and the type says what the access does; the
locked registers are those of `configurationIsLocked`. -/
theorem accessTypes : Obligations.AccessTypes := by
  intro s off v
  refine ⟨fun hoff => ?writeOnly, fun hoff => ?readOnly, ?irqStatus, fun hi hoff => ?locked⟩
  case writeOnly =>
    obtain ⟨r, hr, hm⟩ := writeOnlyRegs_offsets off hoff
    rw [runEvent, hostRead_of_mem_regMap hm, readReg_writeOnlyRegs hr]
  case readOnly =>
    obtain ⟨r, hr, hm⟩ := readOnlyRegs_offsets off hoff
    have hcmd : r ≠ .cmd := by rintro rfl; exact absurd hr (by decide)
    rw [runEvent, hostWrite_of_mem_regMap v hm hcmd, writeReg_readOnlyRegs hr]
  case irqStatus =>
    have hm : ((0x058 : Offset).toNat, Reg.irqStatus) ∈ regMap := by decide
    rw [runEvent, hostWrite_of_mem_regMap v hm (by decide), writeReg_irqStatus]
  case locked => exact (configurationIsLocked s hi).1 off v hoff

end Sys2Proof.Machine
end

section
/-! The decoder (30_encoding.md R91-R95): which words it reads as which command, and the words that it calls illegal. -/

namespace Sys2Proof

open Sys2Proof.Laws.EncodeFields (opcode)

section Decoder
variable {v w : Word} {i : Instr}

/-! ### From the fields of a word to its command -/

/-- The command with `len` as its LEN operand; a command that ignores LEN (30_encoding.md R93) stays as it is. -/
def Instr.withLen : Instr → Nat → Instr
  | .cbcmac _, len => .cbcmac len
  | .khash _, len => .khash len
  | .fenc _, len => .fenc len
  | .fdec _, len => .fdec len
  | .send _, len => .send len
  | i, _ => i

/-- Reserved bits that are not 0 make a word illegal, whatever its OP. -/
theorem decode_of_rsvd_ne_zero (hr : cmdRsvd v ≠ 0) : decode v = .error (.reservedBits (cmdRsvd v)) := if_pos hr

/-- A word with RSVD = 0x00 and the opcode of a command is that command, with the word's LEN. -/
theorem decode_of_opcode (hr : cmdRsvd v = 0) (hop : cmdOp v = opcode i) :
    decode v = .ok (i.withLen (cmdLen v)) := by
  cases i <;> simp [decode, hr, hop, opcode, Instr.withLen]

/-- The fields of a word that decodes: RSVD = 0x00, and the opcode and LEN of its command. -/
theorem fields_of_decode (h : decode v = .ok i) :
    cmdRsvd v = 0 ∧ cmdOp v = opcode i ∧ i.withLen (cmdLen v) = i := by
  rw [decode] at h
  split_ifs at h with hr hop hop hop hop hop hop hop hop hop <;>
    · injection h with h
      subst h
      exact ⟨not_not.mp hr, hop, rfl⟩

/-! ### The illegal words -/

/-- The nine opcodes are 0x01 to 0x09 (30_encoding.md R93). -/
theorem exists_opcode_iff (op : BitVec 8) : (∃ i, op = opcode i) ↔ 0 < op.toNat ∧ op.toNat < 0x0A := by
  constructor
  · rintro ⟨i, rfl⟩
    cases i <;> simp [opcode]
  · rintro ⟨hpos, hlt⟩
    obtain ⟨n, hn⟩ : ∃ n, n = op.toNat := ⟨_, rfl⟩
    obtain rfl : op = BitVec.ofNat 8 n := by simp [hn]
    rw [← hn] at hpos hlt
    interval_cases n
    · exact ⟨.init, rfl⟩
    · exact ⟨.encrypt, rfl⟩
    · exact ⟨.decrypt, rfl⟩
    · exact ⟨.cbcmac 0, rfl⟩
    · exact ⟨.khash 0, rfl⟩
    · exact ⟨.fenc 0, rfl⟩
    · exact ⟨.fdec 0, rfl⟩
    · exact ⟨.send 0, rfl⟩
    · exact ⟨.procrx, rfl⟩

/-- The legal words are those with RSVD = 0x00 and the opcode of a command. -/
theorem not_illegalWord_iff : ¬ Machine.illegalWord v ↔ cmdRsvd v = 0 ∧ ∃ i, cmdOp v = opcode i := by
  rw [exists_opcode_iff, cmdRsvd, cmdOp, not_or, not_or, not_not]
  exact and_congr_right fun _ => by omega

/-- The decoder reads a command from exactly the legal words (30_encoding.md R95). -/
theorem exists_decode_iff : (∃ i, decode v = .ok i) ↔ ¬ Machine.illegalWord v := by
  rw [not_illegalWord_iff]
  constructor
  · rintro ⟨i, h⟩
    obtain ⟨hr, hop, -⟩ := fields_of_decode h
    exact ⟨hr, i, hop⟩
  · rintro ⟨hr, i, hop⟩
    exact ⟨_, decode_of_opcode hr hop⟩

/-! ### Words that differ in LEN only -/

/-- The low half of a word holds its OP and RSVD (30_encoding.md R91). -/
theorem op_rsvd_of_low_half (h : v.extractLsb' 0 16 = w.extractLsb' 0 16) :
    cmdOp v = cmdOp w ∧ cmdRsvd v = cmdRsvd w := by
  have hop (u : Word) : cmdOp u = (u.extractLsb' 0 16).extractLsb' 0 8 := by
    rw [cmdOp, BitVec.extractLsb'_extractLsb'_of_le (by decide)]
  have hrsvd (u : Word) : cmdRsvd u = (u.extractLsb' 0 16).extractLsb' 8 8 := by
    rw [cmdRsvd, BitVec.extractLsb'_extractLsb'_of_le (by decide)]
  exact ⟨by rw [hop, h, ← hop], by rw [hrsvd, h, ← hrsvd]⟩

/-- Where the command ignores LEN, words with the same OP and RSVD decode alike (30_encoding.md R95). -/
theorem decode_congr_of_ignored_len (hop : cmdOp v = cmdOp w) (hr : cmdRsvd v = cmdRsvd w)
    (hi : cmdOp v = opcode i) (hlen : ∀ len, i.withLen len = i) : decode v = decode w := by
  by_cases h0 : cmdRsvd v = 0
  · rw [decode_of_opcode h0 hi, decode_of_opcode (hr ▸ h0) (hop ▸ hi), hlen, hlen]
  · rw [decode_of_rsvd_ne_zero h0, decode_of_rsvd_ne_zero (hr ▸ h0), hr]

end Decoder

end Sys2Proof

namespace Sys2Proof.Machine

open Sys2Proof.Laws.EncodeFields (opcode)

/-! ### What a word runs -/

/-- The opcodes of the commands that ignore LEN (30_encoding.md R93). -/
theorem exists_opcode_ignoring_len {op : BitVec 8} (hop : op = 0x01 ∨ op = 0x02 ∨ op = 0x03 ∨ op = 0x09) :
    ∃ i, op = opcode i ∧ ∀ len, i.withLen len = i := by
  rcases hop with h | h | h | h
  · exact ⟨.init, h, fun _ => rfl⟩
  · exact ⟨.encrypt, h, fun _ => rfl⟩
  · exact ⟨.decrypt, h, fun _ => rfl⟩
  · exact ⟨.procrx, h, fun _ => rfl⟩

/-- Words that decode alike run alike. -/
theorem runCommand_congr {v w : Word} (h : decode v = decode w) (s : State) : runCommand v s = runCommand w s := by
  rw [runCommand, runCommand, h]

/-- Settles O3: `exists_decode_iff` for the legal words; words with the same low half have the same OP and RSVD, and nothing
else of a word reaches a command that ignores LEN. -/
theorem everyWordIsACommandOrIllegal : Obligations.EveryWordIsACommandOrIllegal := by
  refine ⟨fun v => exists_decode_iff, fun v w hlow hcmd => ?_⟩
  obtain ⟨hop, hrsvd⟩ := op_rsvd_of_low_half hlow
  obtain ⟨i, hi, hlen⟩ := exists_opcode_ignoring_len hcmd
  have hdecode : decode v = decode w := decode_congr_of_ignored_len hop hrsvd hi hlen
  exact ⟨hdecode, runCommand_congr hdecode⟩

/-! ### An illegal word at CMD -/

/-- An illegal word only reports ILLEGAL_COMMAND (30_encoding.md R94). -/
theorem runCommand_of_illegalWord {v : Word} (h : illegalWord v) (s : State) :
    runCommand v s = .next (s.finish .illegalCommand) := by
  rw [runCommand]
  cases hd : decode v with
  | ok i => exact absurd h (exists_decode_iff.mp ⟨i, hd⟩)
  | error e => rfl

/-- A 32-bit write at CMD's offset dispatches its word. -/
theorem hostWrite_cmd (v : Word) (s : State) : hostWrite 32 cmdOffset v s = runCommand v s := by
  rw [hostWrite, accessTarget_cmd.mpr ⟨rfl, rfl⟩]

/-- With a CMD write as the next event, the step runs its word. -/
theorem step_of_cmd_write {s : State} {v : Word} {rest : List Event}
    (hp : s.env.pending = .hostWrite 32 cmdOffset v :: rest) :
    step s = settle s.afterPop (runCommand v s.afterPop) := by
  rw [step_of_pending s hp, runEvent, hostWrite_cmd]

/-- Settles O4: the step runs the written word, and an illegal one only writes STATUS.CODE. -/
theorem illegalWordChangesOnlyStatus : Obligations.IllegalWordChangesOnlyStatus := by
  refine ⟨rfl, fun s v rest hp hv => ?_⟩
  have hill : illegalWord v := by simpa [illegalWord, BitVec.toNat_eq] using hv
  rw [step_of_cmd_write hp, runCommand_of_illegalWord hill, settle_next]
  rw [State.finish, State.afterPop, hp, List.tail_cons]

end Sys2Proof.Machine
end

section
/-! The block cipher (40_cipher.md): the two directions undo each other (R117), and the blocks between the rounds (R115,
R116). -/

namespace Sys2Proof.Machine

section Cipher
variable (rk : KeySchedule) (b : Block)

/-! ### Each direction undoes the other -/

/-- The inverse rounds undo the rounds of the same row of keys: the round that came last is undone first. -/
theorem foldr_decRound_foldl_encRound (ks : List Word) (b : Block) :
    ks.foldr decRound (ks.foldl (fun b k => encRound k b) b) = b := by
  induction ks generalizing b with
  | nil => rfl
  | cons k ks ih => rw [List.foldl_cons, List.foldr_cons, ih, decRound_encRound]

/-- The rounds undo the inverse rounds of the same row of keys. -/
theorem foldl_encRound_foldr_decRound (ks : List Word) (b : Block) :
    ks.foldl (fun b k => encRound k b) (ks.foldr decRound b) = b := by
  induction ks with
  | nil => rfl
  | cons k ks ih => rw [List.foldl_cons, List.foldr_cons, encRound_decRound, ih]

/-- R117, first half, for every row of round keys. -/
@[simp] theorem decrypt_encrypt : decrypt rk (encrypt rk b) = b := foldr_decRound_foldl_encRound _ b

/-- R117, second half, for every row of round keys. -/
@[simp] theorem encrypt_decrypt : encrypt rk (decrypt rk b) = b := foldl_encRound_foldr_decRound _ b

/-! ### The blocks between the rounds -/

/-- One encryption round by its words, with the rotations of `BitVec` (R112). -/
theorem encRound_words (k : Word) :
    (encRound k b).w0 = (b.w0.rotateRight 8 + b.w1) ^^^ k
      ∧ (encRound k b).w1 = b.w1.rotateLeft 3 ^^^ (encRound k b).w0 := by
  simp only [encRound, Config.alpha, Config.beta]
  rw [ror32_eq (by decide), rol32_eq (by decide)]
  exact ⟨rfl, rfl⟩

/-- One decryption round by its words, with the rotations of `BitVec` (R113). -/
theorem decRound_words (k : Word) :
    (decRound k b).w1 = (b.w1 ^^^ b.w0).rotateRight 3
      ∧ (decRound k b).w0 = ((b.w0 ^^^ k) - (decRound k b).w1).rotateLeft 8 := by
  simp only [decRound, Config.alpha, Config.beta]
  rw [ror32_eq (by decide), rol32_eq (by decide)]
  exact ⟨rfl, rfl⟩

/-- The block after the encryption rounds with RK[0], …, RK[i-1]. -/
def encryptUpTo (i : Nat) : Block := (rk.toList.take i).foldl (fun b k => encRound k b) b

/-- The block after the decryption rounds with RK[26], …, RK[i]. -/
def decryptDownTo (i : Nat) : Block := (rk.toList.drop i).foldr decRound b

theorem encryptUpTo_zero : encryptUpTo rk b 0 = b := rfl

theorem encryptUpTo_all : encryptUpTo rk b 27 = encrypt rk b := by
  rw [encryptUpTo, encrypt, List.take_of_length_le (by simp)]

theorem encryptUpTo_succ {i : Nat} (hi : i < 27) : encryptUpTo rk b (i + 1) = encRound rk[i] (encryptUpTo rk b i) := by
  rw [encryptUpTo, List.take_succ_eq_append_getElem (by simpa using hi), List.foldl_concat, Vector.getElem_toList,
    encryptUpTo]

theorem decryptDownTo_all : decryptDownTo rk b 27 = b := by
  rw [decryptDownTo, List.drop_of_length_le (by simp), List.foldr_nil]

theorem decryptDownTo_zero : decryptDownTo rk b 0 = decrypt rk b := rfl

theorem decryptDownTo_succ {i : Nat} (hi : i < 27) :
    decryptDownTo rk b i = decRound rk[i] (decryptDownTo rk b (i + 1)) := by
  rw [decryptDownTo, List.drop_eq_getElem_cons (by simpa using hi), List.foldr_cons, Vector.getElem_toList, decryptDownTo]

end Cipher

/-! ### The obligations -/

/-- Settles O11: the round trip holds for every row of round keys, so for every key's schedule. -/
theorem cipherRoundTrip : Obligations.CipherRoundTrip :=
  fun _ _ _ _ b => ⟨decrypt_encrypt _ b, encrypt_decrypt _ b⟩

/-- Settles O12: `encryptUpTo` and `decryptDownTo` are the blocks, and each is one round away from the next. -/
theorem cipherRunsItsRoundsInOrder : Obligations.CipherRunsItsRoundsInOrder := by
  refine fun rk b => ⟨⟨encryptUpTo rk b, encryptUpTo_zero rk b, (encryptUpTo_all rk b).symm, fun i hi => ?_⟩,
    decryptDownTo rk b, decryptDownTo_all rk b, (decryptDownTo_zero rk b).symm, fun i hi => ?_⟩
  · rw [encryptUpTo_succ rk b hi]
    exact encRound_words _ _
  · rw [decryptDownTo_succ rk b hi]
    exact decRound_words _ _

end Sys2Proof.Machine
end

section
/-! The keyed hash (41_keyed_hash.md R131-R136): SipRound by its words, and the message words by byte index. -/

namespace Sys2Proof.Machine

section KeyedHash
variable (d : List Byte)

/-! ### Bytes by their index -/

/-- The `j`-th piece of a sequence is its bytes 8j to 8j+7. -/
theorem pieces_eq_map_slice (k : Nat) : pieces k d = (List.range k).map fun j => slice d (8 * j) 8 := by
  induction k generalizing d with
  | zero => rfl
  | succ k ih =>
    have htail (j : Nat) : slice (d.drop 8) (8 * j) 8 = slice d (8 * (j + 1)) 8 := by
      rw [slice, slice, List.drop_drop, Nat.mul_succ, Nat.add_comm]
    rw [pieces, ih, funext htail, List.range_succ_eq_map, List.map_cons, List.map_map]
    rfl

/-- The last bytes of a sequence are its bytes from 8⌊n/8⌋ on, n mod 8 of them. -/
theorem lastBytes_eq_slice : lastBytes d = slice d (8 * (d.length / 8)) (d.length % 8) := by
  rw [slice, List.take_of_length_le (by simp; omega), lastBytes]

theorem deserLE_zeros (z : Nat) : deserLE (List.replicate z 0) = 0 := by
  induction z with
  | zero => rfl
  | succ z ih =>
    rw [List.replicate_succ, deserLE, ih]
    rfl

/-- Zero bytes at the most significant end do not change the value. -/
theorem deserLE_append_zeros (bs : List Byte) (z : Nat) : deserLE (bs ++ List.replicate z 0) = deserLE bs := by
  induction bs with
  | nil => exact deserLE_zeros z
  | cons b bs ih => rw [List.cons_append, deserLE, ih, deserLE]

/-- The last bytes fill at most the low seven bytes of a word. -/
theorem deserLE_lastBytes_lt : deserLE (lastBytes d) < 2 ^ 56 :=
  calc deserLE (lastBytes d)
    _ < 256 ^ (d.length % 8) := by simpa using deserLE_lt (lastBytes d)
    _ ≤ 256 ^ 7 := Nat.pow_le_pow_right (by decide) (by omega)
    _ = 2 ^ 56 := by norm_num

/-! ### The words that the hash takes -/

/-- A value shifted as a word is the word of the shifted value. -/
theorem ofNat_shiftLeft (w n k : Nat) : BitVec.ofNat w n <<< k = BitVec.ofNat w (n <<< k) := by
  apply BitVec.eq_of_toNat_eq
  simp [Nat.shiftLeft_eq]

/-- The length byte and the last bytes do not overlap, so the final word is their sum (R134). -/
theorem hashLastWord_eq :
    hashLastWord d = BitVec.ofNat 64 (d.length % 256 * 2 ^ 56 + deserLE (lastBytes d)) := by
  rw [hashLastWord, le64, deserLE_append_zeros, ofNat_shiftLeft, ← BitVec.ofNat_or,
    ← Nat.shiftLeft_add_eq_or_of_lt (deserLE_lastBytes_lt d), Nat.shiftLeft_eq]

/-- SipRound by its words, with the rotations of `BitVec` (R132). -/
theorem sipRound_words (s : HashState) :
    sipRound s =
      let a0 := s.v0 + s.v1
      let a1 := s.v1.rotateLeft 13 ^^^ a0
      let a2 := s.v2 + s.v3
      let a3 := s.v3.rotateLeft 16 ^^^ a2
      ⟨a0.rotateLeft 32 + a3, a1.rotateLeft 17 ^^^ (a2 + a1), (a2 + a1).rotateLeft 32,
        a3.rotateLeft 21 ^^^ (a0.rotateLeft 32 + a3)⟩ := by
  simp (disch := decide) only [sipRound, rol64_eq]

/-- The whole words of the message enter by index (R133). -/
theorem foldl_hashWord_wholePieces (s : HashState) :
    ((wholePieces d).map le64).foldl hashWord s =
      (List.range (d.length / 8)).foldl (fun st j => hashWord st (le64 (slice d (8 * j) 8))) s := by
  rw [wholePieces, pieces_eq_map_slice, List.foldl_map, List.foldl_map]

end KeyedHash

/-- Settles O15: SipRound by its words, the message words by index, and the final word as a sum; the other clauses are the
definitions themselves. -/
theorem hashTakesWordsByIndex : Obligations.HashTakesWordsByIndex := by
  refine ⟨fun _ _ => rfl, fun s a0 a1 a2 a3 h0 h1 h2 h3 => ?round, fun s t m ht => ?word, fun _ => rfl,
    fun k0 k1 d a f ha hf => ?hash⟩
  case round =>
    subst h0 h1 h2 h3
    rw [sipRound_words]
    exact ⟨rfl, rfl, rfl, rfl⟩
  case word => rw [ht, hashWord]
  case hash => rw [hf, ha, ← foldl_hashWord_wholePieces, ← lastBytes_eq_slice, ← hashLastWord_eq, keyedHash]

end Sys2Proof.Machine
end

section
/-! The MAC over the cipher (42_cbc_mac.md R145-R148): the padded input as whole blocks, and the chain by
block index. -/

namespace Sys2Proof.Machine

/-! ### The chain over a row of blocks -/

/-- The cipher output C_j of the chain over the blocks P_0, P_1, … (R147). -/
def chainOutput (rk : KeySchedule) (P : Nat → Block) : Nat → Block
  | 0 => encrypt rk (P 0)
  | j + 1 => encrypt rk ((P (j + 1)).xor (chainOutput rk P j))

/-- From C_j the next `n` blocks lead to C_(j+n). -/
theorem macChain_chainOutput (rk : KeySchedule) (P : Nat → Block) (n j : Nat) :
    macChain rk (chainOutput rk P j) ((List.range n).map fun i => P (j + 1 + i)) = chainOutput rk P (j + n) := by
  induction n generalizing j with
  | zero => rfl
  | succ n ih =>
    have hshift (i : Nat) : P (j + 1 + (i + 1)) = P (j + 1 + 1 + i) := congrArg P (by omega)
    calc macChain rk (chainOutput rk P j) ((List.range (n + 1)).map fun i => P (j + 1 + i))
      _ = macChain rk (chainOutput rk P (j + 1)) ((List.range n).map fun i => P (j + 1 + (i + 1))) := by
          simp [List.range_succ_eq_map, macChain, chainOutput, Function.comp_def]
      _ = chainOutput rk P (j + (n + 1)) := by
          rw [funext hshift, ih, Nat.add_assoc, Nat.add_comm 1 n]

section CbcMac
variable (d : List Byte)

/-! ### Padding -/

theorem macPad_of_aligned (h8 : d.length % 8 = 0) (hd : d ≠ []) : macPad d = d :=
  if_neg (by simp [h8, hd])

theorem macPad_of_unaligned_or_nil (h : d.length % 8 ≠ 0 ∨ d = []) :
    macPad d = d ++ 0x80 :: List.replicate ((7 - d.length % 8) % 8) 0 :=
  if_pos (by simpa using h)

/-! ### The blocks of the padded input -/

/-- The padded input has no bytes outside its blocks. -/
theorem macPad_length_eq : (macPad d).length = 8 * (macBlocks d).length := by
  have := (macPad_length d).1
  rw [macBlocks, List.length_map, wholePieces, pieces_length]
  omega

/-- There is always a block 0 (R146). -/
theorem macBlocks_length_pos : 0 < (macBlocks d).length := by
  have := (macPad_length d).2
  rw [macPad_length_eq] at this
  omega

/-- The block P_j of the padded input: its bytes 8j to 8j+7 as two words (R146). -/
def macBlock (j : Nat) : Block := ⟨le32 (slice (macPad d) (8 * j) 4), le32 (slice (macPad d) (8 * j + 4) 4)⟩

/-- A block read at an index is the words at that index and four bytes on. -/
theorem ofBytes_slice (a : Nat) : Block.ofBytes (slice d a 8) = ⟨le32 (slice d a 4), le32 (slice d (a + 4) 4)⟩ := by
  simp [Block.ofBytes, slice, List.take_take, List.drop_take]

theorem macBlocks_eq_map_macBlock : macBlocks d = (List.range (macBlocks d).length).map (macBlock d) := by
  have hlen : (macPad d).length / 8 = (macBlocks d).length := by rw [macPad_length_eq]; omega
  rw [macBlocks, wholePieces, hlen, pieces_eq_map_slice, List.map_map]
  simp [Function.comp_def, ofBytes_slice, macBlock]

/-- The tag is the last output of the chain. -/
theorem macTag_eq_chainOutput (rk : KeySchedule) {N : Nat} (hN : (macBlocks d).length = N + 1) :
    macTag rk d = chainOutput rk (macBlock d) N := by
  have hblocks : macBlocks d = macBlock d 0 :: (List.range N).map fun i => macBlock d (0 + 1 + i) := by
    rw [macBlocks_eq_map_macBlock, hN, List.range_succ_eq_map]
    simp [Function.comp_def, Nat.add_comm 1]
  rw [macTag, hblocks]
  simpa only [chainOutput, Nat.zero_add] using macChain_chainOutput rk (macBlock d) N 0

end CbcMac

/-- Settles O17: the two branches of the padding rule, and the padded input as its blocks, of which there is
at least one. -/
theorem macPaddingMakesWholeBlocks : Obligations.MacPaddingMakesWholeBlocks := fun d =>
  ⟨macPad_of_aligned d,
    fun h => ⟨(7 - d.length % 8) % 8, Nat.mod_lt _ (by decide), macPad_of_unaligned_or_nil d h⟩,
    macPad_length_eq d, List.ne_nil_of_length_pos (macBlocks_length_pos d)⟩

/-- Settles O18: `macBlock` and `chainOutput` are the blocks and the outputs, and the tag is the last output. -/
theorem macChainsByBlockIndex : Obligations.MacChainsByBlockIndex := by
  intro rk d
  obtain ⟨N, hN⟩ := Nat.exists_eq_add_one.mpr (macBlocks_length_pos d)
  refine ⟨N, macBlock d, chainOutput rk (macBlock d), ?length, fun _ _ => rfl, rfl, fun j hj _ => ?chain, ?tag⟩
  case length => rw [macPad_length_eq, hN]
  case chain =>
    obtain ⟨i, rfl⟩ := Nat.exists_eq_add_one.mpr hj
    rfl
  case tag => rw [cbcMac, macTag_eq_chainOutput d rk hN, Block.toBytes]

end Sys2Proof.Machine
end

section
/-! The frame codec (43_frame_codec.md): the fields of a frame where FrameCheck reads them back, the sync marker byte by
byte (R162), the payload block by block (R165), and the round trip (R174). -/

namespace Sys2Proof.Machine

/-! ### Bytes and pieces by their index -/

/-- The field between a prefix of known length and the rest of a sequence. -/
theorem slice_append {a b : List Byte} {i n : Nat} (ha : a.length = i) (hb : b.length = n) (c : List Byte) :
    slice (a ++ (b ++ c)) i n = b := by
  rw [slice, List.drop_left' ha, List.take_left' hb]

/-- Byte `i` of a value serialized with the least significant byte first (00_scope.md R9). -/
theorem serLE_getElem? {n i : Nat} (hi : i < n) (v : Nat) : (serLE n v)[i]? = some (BitVec.ofNat 8 (v / 256 ^ i)) := by
  induction n generalizing i v with
  | zero => omega
  | succ n ih =>
    cases i with
    | zero => simp [serLE]
    | succ i =>
      rw [serLE, List.getElem?_cons_succ, ih (by omega), Nat.div_div_eq_div_mul, Nat.pow_succ']

/-- The whole piece `j` of a sequence is its bytes 8j to 8j+7. -/
theorem wholePieces_getElem? {d : List Byte} {j : Nat} (hj : j < d.length / 8) :
    (wholePieces d)[j]? = some (slice d (8 * j) 8) := by
  simp [wholePieces, pieces_eq_map_slice, hj]

/-- A byte behind the whole pieces, by its place in the last bytes. -/
theorem lastBytes_getD {d : List Byte} {i : Nat} (hi : 8 * (d.length / 8) ≤ i) :
    (lastBytes d).getD (i - 8 * (d.length / 8)) 0 = d.getD i 0 := by
  simp [lastBytes, List.getD_eq_getElem?_getD, hi]

theorem xorBytes_getD {d e : List Byte} {i : Nat} (hd : i < d.length) (he : i < e.length) :
    (xorBytes d e).getD i 0 = d.getD i 0 ^^^ e.getD i 0 := by
  simp [xorBytes, hd, he]

section Codec
variable (c : Codec)

/-! ### The sync marker (R162) -/

/-- Byte `j` of the sync marker is SYNC[8j+7:8j]. -/
theorem syncBytes_getElem? {j : Nat} (hj : j < c.syncLen) :
    c.syncBytes[j]? = some (c.sync.extractLsb' (8 * j) 8) := by
  have hpow : 256 ^ j = 2 ^ (8 * j) := by rw [Nat.pow_mul]
  rw [Codec.syncBytes, serLE_getElem? hj, hpow, ← Nat.shiftRight_eq_div_pow, BitVec.extractLsb']

/-- A range does not begin with the sync marker exactly when one of its first S bytes is not the marker's. -/
theorem take_ne_syncBytes_iff (d : List Byte) :
    d.take c.syncLen ≠ c.syncBytes ↔ ∃ j < c.syncLen, d[j]? ≠ some (c.sync.extractLsb' (8 * j) 8) := by
  have hbyte {j : Nat} (hj : j < c.syncLen) :
      (d.take c.syncLen)[j]? = c.syncBytes[j]? ↔ d[j]? = some (c.sync.extractLsb' (8 * j) 8) := by
    rw [List.getElem?_take_of_lt hj, syncBytes_getElem? c hj]
  have hbehind {j : Nat} (hj : ¬ j < c.syncLen) : (d.take c.syncLen)[j]? = c.syncBytes[j]? := by
    rw [List.getElem?_eq_none (by simp; omega), List.getElem?_eq_none (by simp; omega)]
  rw [ne_eq, List.ext_getElem?_iff, not_forall]
  constructor
  · rintro ⟨j, hne⟩
    have hj : j < c.syncLen := not_not.mp (mt hbehind hne)
    exact ⟨j, hj, mt (hbyte hj).mpr hne⟩
  · rintro ⟨j, hj, hne⟩
    exact ⟨j, mt (hbyte hj).mp hne⟩

/-- In a range that is long enough the marker is the first thing that can be wrong (R170). -/
theorem frameCheck_badSync_iff {d : List Byte} (hlen : c.minFrame ≤ d.length) :
    c.frameCheck d = .bad .badSync ↔ d.take c.syncLen ≠ c.syncBytes := by
  rw [Codec.frameCheck, if_neg (Nat.not_lt.mpr hlen)]
  split_ifs with hsync <;> simp [hsync]

/-! ### The payload transform (R165, R166) -/

section Transform
variable (f g : Block → Block) (ctr : Word) (pl : List Byte)

theorem xorBytes_keystream_length_lt : (xorBytes (lastBytes pl) (c.keystream ctr pl.length)).length < 8 := by
  simp; omega

/-- Each whole block goes through the block function on its own. -/
theorem wholePieces_transform :
    wholePieces (c.transform f ctr pl) = (wholePieces pl).map fun b => (f (Block.ofBytes b)).toBytes :=
  wholePieces_of_flatten _ _ (fun _ => length_of_mem_map_toBytes) (xorBytes_keystream_length_lt c ctr pl)

/-- The bytes after the last whole block are XORed with the keystream. -/
theorem lastBytes_transform :
    lastBytes (c.transform f ctr pl) = xorBytes (lastBytes pl) (c.keystream ctr pl.length) :=
  lastBytes_of_flatten _ _ (fun _ => length_of_mem_map_toBytes) (xorBytes_keystream_length_lt c ctr pl)

/-- The transform over an inverse block function undoes the transform: the keystream depends on the counter and the
length only, and it cancels itself. -/
theorem transform_transform (hgf : ∀ b, g (f b) = b) : c.transform g ctr (c.transform f ctr pl) = pl := by
  have hpieces : ((wholePieces pl).map fun b => (f (Block.ofBytes b)).toBytes).map
      (fun b => (g (Block.ofBytes b)).toBytes) = wholePieces pl := by
    rw [List.map_map]
    refine (List.map_congr_left fun p hp => ?_).trans (List.map_id _)
    simp [ofBytes_toBytes, hgf, toBytes_ofBytes (length_of_mem_wholePieces hp)]
  rw [Codec.transform, wholePieces_transform, lastBytes_transform, transform_length, hpieces,
    xorBytes_xorBytes (by simp; omega), wholePieces_append_lastBytes]

/-- The block `j` of the transformed payload. -/
theorem slice_transform {j : Nat} (hj : j < pl.length / 8) :
    slice (c.transform f ctr pl) (8 * j) 8 = (f (Block.ofBytes (slice pl (8 * j) 8))).toBytes := by
  apply Option.some_inj.mp
  rw [← wholePieces_getElem? (by simpa using hj), wholePieces_transform, List.getElem?_map, wholePieces_getElem? hj,
    Option.map_some]

/-- A byte of the final partial block of the transformed payload. -/
theorem transform_getD {i : Nat} (hwhole : 8 * (pl.length / 8) ≤ i) (hi : i < pl.length) :
    (c.transform f ctr pl).getD i 0
      = pl.getD i 0 ^^^ (c.keystream ctr pl.length).getD (i - 8 * (pl.length / 8)) 0 := by
  have hlast := lastBytes_getD (d := c.transform f ctr pl) (i := i) (by simpa using hwhole)
  rw [transform_length, lastBytes_transform, xorBytes_getD (by simp; omega) (by simp; omega),
    lastBytes_getD hwhole] at hlast
  exact hlast.symm

end Transform

/-- DecPayload undoes EncPayload, with ENC = 0 and with ENC = 1 (R165, R166). -/
theorem decPayload_encPayload (ctr : Word) (pl : List Byte) : c.decPayload ctr (c.encPayload ctr pl) = pl := by
  rw [Codec.decPayload, Codec.encPayload]
  split
  · exact transform_transform c _ _ ctr pl (decrypt_encrypt c.rk)
  · rfl

/-! ### The fields of an encoded frame, whatever follows it (R160, R171) -/

section Fields
variable (ctr : Word) (pl rest : List Byte)

theorem frameEncode_take_syncLen : (c.frameEncode ctr pl ++ rest).take c.syncLen = c.syncBytes := by
  simp [Codec.frameEncode, Codec.header]

theorem counterOf_frameEncode : c.counterOf (c.frameEncode ctr pl ++ rest) = ctr := by
  have hfield : slice (c.frameEncode ctr pl ++ rest) c.syncLen 4 = ser 4 ctr.toNat c.order := by
    simp only [Codec.frameEncode, Codec.header, List.append_assoc]
    exact slice_append (by simp) (by simp) _
  have := ctr.isLt
  rw [Codec.counterOf, hfield, deser_ser, Nat.mod_eq_of_lt (by omega), BitVec.ofNat_toNat, BitVec.setWidth_eq]

/-- The length field is right for a payload whose length fits it. -/
theorem declaredLen_frameEncode (hfit : pl.length < 256 ^ c.lenBytes) :
    c.declaredLen (c.frameEncode ctr pl ++ rest) = pl.length := by
  have hfield : slice (c.frameEncode ctr pl ++ rest) (c.syncLen + 4) c.lenBytes = ser c.lenBytes pl.length c.order := by
    simp only [Codec.frameEncode, Codec.header, List.append_assoc]
    rw [← List.append_assoc]
    exact slice_append (by simp) (by simp) _
  rw [Codec.declaredLen, hfield, deser_ser, Nat.mod_eq_of_lt hfit]

theorem payloadField_frameEncode :
    slice (c.frameEncode ctr pl ++ rest) c.headerLen pl.length = c.encPayload ctr pl := by
  simp only [Codec.frameEncode, List.append_assoc]
  exact slice_append (by simp) (by simp) _

/-- The trailer is the tag of everything before it. -/
theorem tagField_frameEncode :
    slice (c.frameEncode ctr pl ++ rest) (c.headerLen + pl.length) c.tagLen
      = c.auth ((c.frameEncode ctr pl ++ rest).take (c.headerLen + pl.length)) := by
  have hbody : (c.header ctr pl.length ++ c.encPayload ctr pl).length = c.headerLen + pl.length := by simp
  rw [Codec.frameEncode, List.append_assoc, List.take_left' hbody]
  exact slice_append hbody (by simp) _

/-- An encoded frame passes every check of FrameCheck. -/
theorem frameCheck_frameEncode (hfit : pl.length < 256 ^ c.lenBytes) (hmax : pl.length ≤ c.maxLen) :
    c.frameCheck (c.frameEncode ctr pl ++ rest) = .checked ctr pl.length := by
  have hshort : ¬ (c.frameEncode ctr pl ++ rest).length < c.minFrame := by simp [Codec.minFrame]; omega
  have hlength : ¬ (c.maxLen < pl.length
      ∨ (c.frameEncode ctr pl ++ rest).length < c.headerLen + pl.length + c.tagLen) := by simp; omega
  rw [Codec.frameCheck, declaredLen_frameEncode c ctr pl rest hfit, if_neg hshort,
    if_neg (not_not.mpr (frameEncode_take_syncLen c ctr pl rest)), if_neg hlength,
    if_neg (not_not.mpr (tagField_frameEncode c ctr pl rest)), counterOf_frameEncode]

end Fields

/-- Under a legal profile the length field holds every payload length up to MAX (45_channel.md R203). -/
theorem maxLen_lt_of_profileLegal {cap : Nat} (h : profileLegal c cap = true) : c.maxLen < 256 ^ c.lenBytes := by
  have hmax : c.maxLen < 65536 := c.maxPayload.isLt
  rcases lenBytes_cases c with hw | hw
  · have : c.maxLen ≤ 255 := by simp_all [profileLegal]
    rw [hw]; omega
  · rw [hw]; omega

end Codec

/-! ### The obligations -/

/-- Settles O22: a frame begins with the marker, `syncBytes_getElem?` gives the marker's bytes, and the marker is what
BAD_SYNC is about. -/
theorem syncMarkerComparedExactly : Obligations.SyncMarkerComparedExactly := by
  refine fun c => ⟨fun ctr pl j hj => ?_, fun d hlen => ?_⟩
  · have htake : (c.frameEncode ctr pl).take c.syncLen = c.syncBytes := by
      simpa using frameEncode_take_syncLen c ctr pl []
    rw [← List.getElem?_take_of_lt hj, htake, syncBytes_getElem? c hj]
  · rw [frameCheck_badSync_iff c hlen, take_ne_syncBytes_iff]

/-- Settles O24: EncPayload is the payload transform over Encrypt, read by block and by byte. -/
theorem payloadEncryptionByBlock : Obligations.PayloadEncryptionByBlock := by
  refine fun c ctr pl => ⟨fun henc => by simp [Codec.encPayload, henc], fun henc => ?_⟩
  have htransform : c.encPayload ctr pl = c.transform (encrypt c.rk) ctr pl := by simp [Codec.encPayload, henc]
  rw [htransform]
  refine ⟨transform_length c _ ctr pl, fun j hj => ?_, fun i hwhole hi => transform_getD c _ ctr pl hwhole hi⟩
  rw [slice_transform c _ ctr pl hj, ofBytes_slice]

/-- Settles O25: the encoded frame is checked, and its payload field is deciphered to the payload. -/
theorem frameRoundTrip : Obligations.FrameRoundTrip := by
  intro c cap ctr pl rest hlegal hmax
  have hfit : pl.length < 256 ^ c.lenBytes := Nat.lt_of_le_of_lt hmax (maxLen_lt_of_profileLegal c hlegal)
  have hpayload : c.payloadOf (c.frameEncode ctr pl ++ rest) ctr pl.length = pl := by
    rw [Codec.payloadOf, payloadField_frameEncode, decPayload_encPayload]
  rw [Codec.frameDecode, frameCheck_frameEncode c ctr pl rest hfit hmax]
  exact congrArg _ hpayload

end Sys2Proof.Machine
end

section
/-! The transport's events (45_channel.md R231, R233, R235): each settled from the cases of the event's own operation. -/

namespace Sys2Proof.Machine

/-- Settles O46: an accepted byte is one write of RX_BUF, read back at its index and nowhere else. -/
theorem rxByteWritesOneByte : Obligations.RxByteWritesOneByte := by
  intro s i b hwf
  refine ⟨rxByte i b s, rfl, ?_⟩
  rcases rxByte_cases s i b with ⟨ht, hignored⟩ | ⟨hrx, hi, ht⟩ <;> rw [ht]
  · exact ⟨rfl, fun a => (if_neg fun ⟨hrx, hi, _⟩ => hignored ⟨hrx, hi⟩).symm⟩
  · exact ⟨rfl, fun a => by simp [read_write hwf, hrx, hi]⟩

/-- Settles O47: the premises of the three clauses are those of the cases of `boundary`, so each clause meets its own
case and contradicts the others. -/
theorem boundaryRecordsOrRejects : Obligations.BoundaryRecordsOrRejects := by
  intro s count
  rcases boundary_cases s count with ⟨ht, hstray⟩ | ⟨hrx, hrunt, ht⟩ | ⟨hrx, hlong, ht⟩
  · exact ⟨fun _ => congrArg _ ht, fun hrx _ => absurd hrx hstray, fun hrx _ => absurd hrx hstray⟩
  · exact ⟨absurd hrx, fun _ _ => congrArg _ ht, fun _ hlong => absurd hrunt (Nat.not_lt.mpr hlong)⟩
  · exact ⟨absurd hrx, fun _ hrunt => absurd hrunt (Nat.not_lt.mpr hlong), fun _ _ => congrArg _ ht⟩

/-- Settles O48: the two clauses are the two cases of `sendComplete`. -/
theorem sendCompleteEndsTheSend : Obligations.SendCompleteEndsTheSend := by
  intro s
  rcases sendComplete_cases s with ⟨hidle, ht⟩ | ⟨hbusy, ht⟩
  · exact ⟨fun hbusy => absurd hbusy (by simp [hidle]), fun _ => congrArg _ ht⟩
  · exact ⟨fun _ => congrArg _ ht, fun hidle => absurd hbusy (by simp [hidle])⟩

end Sys2Proof.Machine
end

section
/-! The encoder and the decoder undo each other (30_encoding.md R91-R95), and dispatch by what the decoder reads (R96). -/

namespace Sys2Proof

open Sys2Proof.Laws.EncodeFields (opcode operand)

section Encoder
variable {v w : Word} {i : Instr}

/-! ### The word of a command -/

/-- The fields of every well-formed command's word: its opcode, RSVD = 0x00 and its LEN operand (30_encoding.md R91). -/
theorem fields_encode (hi : i.wellFormed = true) :
    cmdOp (encode i) = opcode i ∧ cmdRsvd (encode i) = 0 ∧ cmdLen (encode i) = operand i := by
  cases i with
  | init => exact Laws.EncodeFields.init hi
  | encrypt => exact Laws.EncodeFields.encrypt hi
  | decrypt => exact Laws.EncodeFields.decrypt hi
  | cbcmac len => exact Laws.EncodeFields.cbcmac len hi
  | khash len => exact Laws.EncodeFields.khash len hi
  | fenc len => exact Laws.EncodeFields.fenc len hi
  | fdec len => exact Laws.EncodeFields.fdec len hi
  | send len => exact Laws.EncodeFields.send len hi
  | procrx => exact Laws.EncodeFields.procrx hi

/-- A command is its own with its own LEN operand. -/
theorem withLen_operand (i : Instr) : i.withLen (operand i) = i := by
  cases i <;> rfl

/-- The 16-bit LEN field fits every command (30_encoding.md R92). -/
theorem wellFormed_withLen_cmdLen (i : Instr) (v : Word) : (i.withLen (cmdLen v)).wellFormed = true := by
  have hlen : cmdLen v < 65536 := BitVec.isLt _
  cases i <;> simp [Instr.withLen, Instr.wellFormed, hlen]

/-- A command that takes LEN (30_encoding.md R93) takes the one it is given. -/
theorem operand_withLen (hinit : i ≠ .init) (henc : i ≠ .encrypt) (hdec : i ≠ .decrypt) (hrx : i ≠ .procrx) (len : Nat) :
    operand (i.withLen len) = len := by
  cases i with
  | init => contradiction
  | encrypt => contradiction
  | decrypt => contradiction
  | procrx => contradiction
  | _ => rfl

/-! ### A word by its fields -/

/-- The low half of a word is RSVD and OP. -/
theorem low_half_eq (v : Word) : v.extractLsb' 0 16 = cmdRsvd v ++ cmdOp v := by
  rw [cmdRsvd, cmdOp, BitVec.extractLsb'_append_extractLsb'_eq_extractLsb' (by decide)]

/-- A word is LEN and its low half. -/
theorem word_eq_halves (v : Word) : v = BitVec.ofNat 16 (cmdLen v) ++ v.extractLsb' 0 16 := by
  rw [cmdLen, BitVec.ofNat_toNat, BitVec.setWidth_eq, BitVec.extractLsb'_append_extractLsb'_eq_extractLsb' (by decide)]
  exact BitVec.extractLsb'_eq_self.symm

/-- Words with the same OP and RSVD have the same low half. -/
theorem low_half_congr (hop : cmdOp v = cmdOp w) (hr : cmdRsvd v = cmdRsvd w) :
    v.extractLsb' 0 16 = w.extractLsb' 0 16 := by
  rw [low_half_eq, low_half_eq, hop, hr]

/-- A word is fixed by its low half and LEN. -/
theorem word_ext (hlow : v.extractLsb' 0 16 = w.extractLsb' 0 16) (hlen : cmdLen v = cmdLen w) : v = w := by
  rw [word_eq_halves v, word_eq_halves w, hlow, hlen]

end Encoder

end Sys2Proof

namespace Sys2Proof.Machine

open Sys2Proof.Laws.EncodeFields (opcode operand)

/-- Settles O1: the fields of the command's word are those from which the decoder reads the command. -/
theorem decodeEncodeAgree : Obligations.DecodeEncodeAgree := by
  intro i hi
  obtain ⟨hop, hr, hlen⟩ := fields_encode hi
  calc decode (encode i)
    _ = .ok (i.withLen (cmdLen (encode i))) := decode_of_opcode hr hop
    _ = .ok i := by rw [hlen, withLen_operand]

/-- Settles O2: the word and the word of its command have the same OP and RSVD, and the same LEN where the command takes
it. -/
theorem decodedWordIsReencoded : Obligations.DecodedWordIsReencoded := by
  intro v i h
  obtain ⟨hr, hop, hlen⟩ := fields_of_decode h
  have hi : i.wellFormed = true := hlen ▸ wellFormed_withLen_cmdLen i v
  obtain ⟨hop', hr', hlen'⟩ := fields_encode hi
  have hlow : (encode i).extractLsb' 0 16 = v.extractLsb' 0 16 :=
    low_half_congr (hop'.trans hop.symm) (hr'.trans hr.symm)
  refine ⟨hi, hlow, fun hinit henc hdec hrx => word_ext hlow ?_⟩
  calc cmdLen (encode i)
    _ = operand (i.withLen (cmdLen v)) := by rw [hlen', hlen]
    _ = cmdLen v := operand_withLen hinit henc hdec hrx _

/-! ### Dispatch -/

/-- A word that decodes runs its command. -/
theorem runCommand_of_decode {v : Word} {i : Instr} (h : decode v = .ok i) (s : State) : runCommand v s = exec i s := by
  rw [runCommand, h]

/-- Every command but INIT waits for INIT (30_encoding.md R96). -/
theorem exists_whenReady {i : Instr} (hi : i ≠ .init) (s : State) : ∃ command, exec i s = whenReady s command := by
  cases i with
  | init => contradiction
  | _ => rw [exec]; exact ⟨_, rfl⟩

/-- What a waiting command does before INIT. -/
theorem whenReady_of_not_initDone {s : State} (hs : s.initDone = false) (command : State → State) :
    whenReady s command = .next (s.finish .notReady) := by
  simp [whenReady, hs]

/-- Settles O5: the decoder rejects the illegal words, INIT is the command with OP 0x01, and every other one waits for
INIT. -/
theorem dispatchOrder : Obligations.DispatchOrder := by
  intro s v
  have hdecode (hv : ¬ illegalWord v) : ∃ i, decode v = .ok i := exists_decode_iff.mpr hv
  refine ⟨fun hv => runCommand_of_illegalWord hv s, fun hv hop hs => ?notReady, fun hv _ => ?run⟩
  case notReady =>
    obtain ⟨i, h⟩ := hdecode hv
    obtain ⟨-, hopi, -⟩ := fields_of_decode h
    have hi : i ≠ .init := by rintro rfl; exact hop hopi
    obtain ⟨command, hexec⟩ := exists_whenReady hi s
    rw [runCommand_of_decode h, hexec, whenReady_of_not_initDone hs, State.finish]
  case run =>
    obtain ⟨i, h⟩ := hdecode hv
    obtain ⟨-, hlow, -⟩ := decodedWordIsReencoded v i h
    exact ⟨i, h, (op_rsvd_of_low_half hlow).1, runCommand_of_decode h s⟩

/-- Settles O6: the decoder evaluated on the nine words. -/
theorem specWordsDecode : Obligations.SpecWordsDecode := by
  exact ⟨by decide, by decide, by decide, by decide, by decide, by decide, by decide, by decide, by decide⟩

end Sys2Proof.Machine
end

section
/-! The invariant of the engine: each state update keeps it, so each command, each event and each step does. -/

namespace Sys2Proof.Machine

section Invariant
variable {s t : State}

/-! ### Buffers and lengths -/

/-- Writing one byte below the capacity keeps a buffer well. -/
theorem BufferOk.write {cap : Nat} {m : Memory} (h : BufferOk cap m) {i : Nat} (hi : i < cap) (b : Byte) :
    BufferOk cap (m.write i b) :=
  ⟨write_wf h.canonical i b, write_within h.inside hi b⟩

/-- Writing a sequence that fits keeps a buffer well. -/
theorem BufferOk.writeBytes {cap : Nat} {m : Memory} (h : BufferOk cap m) {a : Nat} {bs : List Byte}
    (hfit : a + bs.length ≤ cap) : BufferOk cap (m.writeBytes a bs) :=
  ⟨writeBytes_wf h.canonical a bs, writeBytes_within h.inside hfit⟩

/-- What a reset draws for a buffer is well. -/
theorem bufferOk_drawnBuffer (cap : Nat) (bs : List Byte) : BufferOk cap (drawnBuffer cap bs) :=
  ⟨drawnBuffer_wf cap bs, drawnBuffer_within cap bs⟩

/-- A 16-bit length register holds no more than what is written to it. -/
theorem toNat_ofNat_le_of_le {w n cap : Nat} (h : n ≤ cap) : (BitVec.ofNat w n).toNat ≤ cap := by
  rw [BitVec.toNat_ofNat]
  exact (Nat.mod_le _ _).trans h

/-- The largest frame of a legal profile fits the buffers (45_channel.md R203). -/
theorem maxFrame_le_of_profileLegal {c : Codec} {cap : Nat} (h : profileLegal c cap = true) : c.maxFrame ≤ cap := by
  simp only [profileLegal, Bool.and_eq_true, Bool.not_eq_true', decide_eq_false_iff_not] at h
  exact Nat.not_lt.mp h.2

@[simp] theorem dataPrefix_length (s : State) (len : Nat) : (s.dataPrefix len).length = len :=
  readBytes_length s.data 0 len

/-- The frame of a payload of at most MAX bytes fits the buffers. -/
theorem frameEncode_fits (h : s.Inv) (hi : s.initDone = true) (ctr : Word) {pl : List Byte}
    (hmax : pl.length ≤ s.codec.maxLen) : (s.codec.frameEncode ctr pl).length ≤ s.bufCap := by
  have hframe := maxFrame_le_of_profileLegal (h.opened hi).legal
  rw [Codec.maxFrame] at hframe
  rw [frameEncode_length]
  omega

/-- The payload of a checked range fits the buffers. -/
theorem payloadOf_fits (h : s.Inv) (hi : s.initDone = true) {d : List Byte} {ctr : Word} {n : Nat}
    (hd : s.codec.frameCheck d = .checked ctr n) : (s.codec.payloadOf d ctr n).length ≤ s.bufCap := by
  have hframe := maxFrame_le_of_profileLegal (h.opened hi).legal
  obtain ⟨-, -, -, hmax, -, -, -⟩ := frameCheck_checked s.codec hd
  rw [Codec.maxFrame] at hframe
  rw [payloadOf_length s.codec hd]
  omega

/-! ### Before and after INIT -/

/-- After INIT nothing is asked of the channel as reset left it. -/
theorem unopened_of_initDone (hi : s.initDone = true) : s.initDone = false → Unopened t :=
  fun hn => absurd (hi.symm.trans hn) (by decide)

/-- A receive direction that has left RX_IDLE has seen INIT. -/
theorem initDone_of_rxState_ne_idle (h : s.Inv) (hrx : s.rxState ≠ .idle) : s.initDone = true :=
  Bool.of_not_eq_false fun hn => hrx (h.unopened hn).rxIdle

/-- An outstanding send has seen INIT. -/
theorem initDone_of_txBusy (h : s.Inv) (htx : s.txBusy = true) : s.initDone = true :=
  Bool.of_not_eq_false fun hn => absurd (htx.symm.trans (h.unopened hn).txIdle) (by decide)

/-! ### Updates that never break the invariant -/

theorem finish_inv (h : s.Inv) (code : Status) : (s.finish code).Inv :=
  { h with
    unopened := fun hn => { h.unopened hn with }
    opened := fun hi => { h.opened hi with } }

theorem setEnv_inv (h : s.Inv) (env : Env) : State.Inv { s with env := env } :=
  { h with
    unopened := fun hn => { h.unopened hn with }
    opened := fun hi => { h.opened hi with } }

theorem setData_inv (h : s.Inv) {m : Memory} (hm : BufferOk s.bufCap m) : State.Inv { s with data := m } :=
  { h with
    data := hm
    unopened := fun hn => { h.unopened hn with }
    opened := fun hi => { h.opened hi with } }

theorem setRxBuf_inv (h : s.Inv) {m : Memory} (hm : BufferOk s.bufCap m) : State.Inv { s with rxBuf := m } :=
  { h with
    rxBuf := hm
    unopened := fun hn => { h.unopened hn with }
    opened := fun hi => { h.opened hi with } }

/-- RES_LEN may always be cleared: it is 0 before INIT as well. -/
theorem failLength_inv (h : s.Inv) (code : Status) : (s.failLength code).Inv :=
  { h with
    resLen := Nat.zero_le _
    unopened := fun hn => { h.unopened hn with resLen := rfl }
    opened := fun hi => { h.opened hi with } }

/-! ### Updates once INIT is done -/

section AfterInit
variable (h : s.Inv) (hi : s.initDone = true)
include h hi

theorem setResult_inv (r0 r1 : Word) : (s.setResult r0 r1).Inv :=
  { h with
    unopened := unopened_of_initDone hi
    opened := fun hi => { h.opened hi with } }

theorem setResLen_inv {n : Nat} (hn : n ≤ s.bufCap) : (s.setResLen n).Inv :=
  { h with
    resLen := toNat_ofNat_le_of_le hn
    unopened := unopened_of_initDone hi
    opened := fun hi => { h.opened hi with } }

theorem setTxBuf_inv {m : Memory} (hm : BufferOk s.bufCap m) : State.Inv { s with txBuf := m } :=
  { h with
    txBuf := hm
    unopened := unopened_of_initDone hi
    opened := fun hi => { h.opened hi with } }

theorem setCounters_inv (tx last sent received errors : Word) : State.Inv { s with
    txCounter := tx
    lastAccepted := last
    packetsSent := sent
    packetsReceived := received
    errorsDetected := errors } :=
  { h with
    unopened := unopened_of_initDone hi
    opened := fun hi => { h.opened hi with } }

theorem setLastError_inv {e : Status} (he : e.isReceiveError = true) : State.Inv { s with lastError := e } :=
  { h with
    lastError := he
    unopened := unopened_of_initDone hi
    opened := fun hi => { h.opened hi with } }

theorem setTransmit_inv (busy done : Bool) : State.Inv { s with txBusy := busy, txDone := done } :=
  { h with
    unopened := unopened_of_initDone hi
    opened := fun hi => { h.opened hi with } }

/-- StartReceive never leaves a ready frame. -/
theorem startReceive_inv : s.startReceive.Inv :=
  { h with
    ready := fun hready => by
      rcases startReceive_rxState_cases s with hrx | hrx <;> rw [hrx] at hready <;> contradiction
    unopened := unopened_of_initDone hi
    opened := fun hi =>
      { h.opened hi with
        armed := by rcases startReceive_rxState_cases s with hrx | hrx <;> rw [hrx] <;> decide } }

/-- A frame of at least MIN_FRAME bytes may become ready. -/
theorem frameReady_inv {n : Nat} (hmin : s.codec.minFrame ≤ n) (hcap : n ≤ s.bufCap) :
    State.Inv { s with rxLen := BitVec.ofNat 16 n, rxState := .frameReady } :=
  { h with
    rxLen := toNat_ofNat_le_of_le hcap
    ready := fun _ => by
      obtain ⟨-, -, hlegal⟩ := h.cap
      have hlen : (BitVec.ofNat 16 n).toNat = n := Nat.mod_eq_of_lt (by omega)
      exact hmin.trans_eq hlen.symm
    unopened := unopened_of_initDone hi
    opened := fun hi => { h.opened hi with armed := nofun } }

theorem buildFrame_inv {f : List Byte} (hfit : f.length ≤ s.bufCap) : (s.buildFrame f).Inv :=
  have hcount : State.Inv { s with txCounter := s.txCounter + 1 } := setCounters_inv h hi _ _ _ _ _
  have hbuf : BufferOk s.bufCap (s.txBuf.writeBytes 0 f) := h.txBuf.writeBytes (by simpa using hfit)
  setResult_inv (setTxBuf_inv hcount hi hbuf) hi (s.txCounter + 1) s.res1

theorem handOff_inv {n : Nat} (hn : n ≤ s.bufCap) : (s.handOff n).Inv := by
  rcases handOff_cases s n with ⟨-, ht⟩ | ⟨-, ht⟩ <;> rw [ht]
  · exact failLength_inv (setEnv_inv h (s.env.afterSend n false)) _
  · have hcount : State.Inv { s with packetsSent := s.packetsSent + 1 } := setCounters_inv h hi _ _ _ _ _
    have hbusy := setTransmit_inv (setEnv_inv hcount (s.env.afterSend n true)) hi true s.txDone
    exact finish_inv (setResLen_inv hbusy hi hn) _

theorem reject_inv {e : Status} (he : e.isReceiveError = true) : (s.reject e).Inv :=
  have hcount : State.Inv { s with errorsDetected := s.errorsDetected + 1 } := setCounters_inv h hi _ _ _ _ _
  finish_inv (startReceive_inv (setResLen_inv (setLastError_inv hcount hi he) hi (Nat.zero_le _)) hi) e

/-- Bytes delivered to DATA, with their counter in RES0 and their length in RES_LEN. -/
theorem writeOutput_inv (ctr : Word) {bs : List Byte} (hfit : bs.length ≤ s.bufCap) :
    (State.setResLen { s with data := s.data.writeBytes 0 bs, res0 := ctr } bs.length).Inv :=
  setResLen_inv (setResult_inv (setData_inv h (h.data.writeBytes (by simpa using hfit))) hi ctr s.res1) hi hfit

theorem deliver_inv (ctr : Word) {pl : List Byte} (hfit : pl.length ≤ s.bufCap) : (s.deliver ctr pl).Inv :=
  have hcount : State.Inv { s with lastAccepted := ctr, packetsReceived := s.packetsReceived + 1 } :=
    setCounters_inv h hi _ _ _ _ _
  finish_inv (startReceive_inv (writeOutput_inv hcount hi ctr hfit) hi) .ok

end AfterInit

/-! ### Commands -/

/-- FrameCheck reports only receive errors (10_state.md R28). -/
theorem isReceiveError_of_frameCheck {c : Codec} {d : List Byte} {e : Status} (h : c.frameCheck d = .bad e) :
    e.isReceiveError = true := by
  rcases frameCheck_bad c h with rfl | rfl | rfl | rfl <;> rfl

/-- INIT with a legal profile gives the channel what the invariant asks of an open one. -/
theorem openChannel_inv (h : s.Inv) (hlegal : profileLegal s.codec s.bufCap = true) : s.openChannel.Inv :=
  { h with
    ready := fun hready => by
      rcases startReceive_rxState_cases s with hrx | hrx <;> exact absurd (hrx.symm.trans hready) (by decide)
    unopened := unopened_of_initDone rfl
    opened := fun _ =>
      { legal := hlegal
        schedule := rfl
        armed := fun hidle => by
          rcases startReceive_rxState_cases s with hrx | hrx <;> exact absurd (hrx.symm.trans hidle) (by decide) } }

theorem exec_inv (h : s.Inv) {i : Instr} (ht : exec i s = .next t) : t.Inv := by
  cases i with
  | init =>
    rcases execInit_cases s ht with rfl | ⟨-, hlegal, rfl⟩
    · exact finish_inv h _
    · exact finish_inv (openChannel_inv h hlegal) _
  | encrypt =>
    rcases execEncrypt_cases s ht with rfl | ⟨hi, rfl⟩
    · exact finish_inv h _
    · exact finish_inv (setResult_inv h hi _ _) _
  | decrypt =>
    rcases execDecrypt_cases s ht with rfl | ⟨hi, rfl⟩
    · exact finish_inv h _
    · exact finish_inv (setResult_inv h hi _ _) _
  | cbcmac len =>
    rcases execCbcmac_cases s ht with rfl | rfl | ⟨hi, -, r0, r1, rfl⟩
    · exact finish_inv h _
    · exact finish_inv h _
    · exact finish_inv (setResult_inv h hi _ _) _
  | khash len =>
    rcases execKhash_cases s ht with rfl | rfl | ⟨hi, -, r0, r1, rfl⟩
    · exact finish_inv h _
    · exact finish_inv h _
    · exact finish_inv (setResult_inv h hi _ _) _
  | fenc len =>
    rcases execFenc_cases s ht with rfl | rfl | ⟨hi, hmax, f, rfl, rfl⟩
    · exact finish_inv h _
    · exact failLength_inv h _
    · exact finish_inv (writeOutput_inv h hi s.arg0 (frameEncode_fits h hi s.arg0 (by simpa using hmax))) _
  | fdec len =>
    rcases execFdec_cases s ht with rfl | ⟨e, rfl⟩ | ⟨hi, -, ctr, n, pl, hd, rfl, rfl⟩
    · exact finish_inv h _
    · exact failLength_inv h _
    · exact finish_inv (writeOutput_inv h hi ctr (payloadOf_fits h hi hd)) _
  | send len =>
    rcases execSend_cases s ht with rfl | ⟨-, rfl⟩ | rfl | ⟨hi, -, hmax, f, rfl, rfl⟩
    · exact finish_inv h _
    · exact failLength_inv h _
    · exact failLength_inv h _
    · have hfit := frameEncode_fits h hi (s.txCounter + 1) (pl := s.dataPrefix len) (by simpa using hmax)
      exact handOff_inv (buildFrame_inv h hi hfit) hi hfit
  | procrx =>
    rcases execProcrx_cases s ht with rfl | ⟨hi, -, ⟨e, hbad, rfl⟩ | ⟨ctr, n, hd, ⟨-, rfl⟩ | ⟨-, rfl⟩⟩⟩
    · exact finish_inv h _
    · exact reject_inv h hi (isReceiveError_of_frameCheck hbad)
    · exact reject_inv h hi rfl
    · exact deliver_inv h hi ctr (payloadOf_fits h hi hd)

/-! ### Events -/

/-- IRQ_STATUS is the one register whose write reaches TX_DONE (10_state.md R42). -/
theorem writeReg_txDone_of_ne_irqStatus {r : Reg} (hr : r ≠ .irqStatus) (v : Word) :
    (writeReg s r v).txDone = s.txDone := by
  cases r with
  | irqStatus => contradiction
  | _ => simp only [writeReg] <;> repeat (split <;> rfl)

/-- No register write sets TX_DONE: it may only clear it. -/
theorem writeReg_txDone_eq_false (hn : s.txDone = false) (r : Reg) (v : Word) : (writeReg s r v).txDone = false := by
  by_cases hr : r = .irqStatus
  · rw [hr, writeReg_irqStatus, hn, Bool.false_and]
  · rw [writeReg_txDone_of_ne_irqStatus hr, hn]

/-- Before INIT no clause of the invariant reads the registers that a write reaches; after it the ones that a clause reads
are locked. -/
theorem writeReg_inv (h : s.Inv) (r : Reg) (v : Word) : (writeReg s r v).Inv where
  cap := by simpa using h.cap
  data := by simpa using h.data
  rxBuf := by simpa using h.rxBuf
  txBuf := by simpa using h.txBuf
  resLen := by simpa using h.resLen
  rxLen := by simpa using h.rxLen
  lastError := by simpa using h.lastError
  ready := by
    intro hready
    rw [writeReg_rxState] at hready
    have hi : s.initDone = true := initDone_of_rxState_ne_idle h (by rw [hready]; decide)
    simpa [writeReg_locked s hi] using h.ready hready
  unopened := by
    intro hn
    have hs := h.unopened (by simpa using hn)
    exact
      { rxIdle := by simpa using hs.rxIdle
        txIdle := by simpa using hs.txIdle
        noTxDone := writeReg_txDone_eq_false hs.noTxDone r v
        txCounter := by simpa using hs.txCounter
        lastAccepted := by simpa using hs.lastAccepted
        packetsSent := by simpa using hs.packetsSent
        packetsReceived := by simpa using hs.packetsReceived
        errorsDetected := by simpa using hs.errorsDetected
        lastError := by simpa using hs.lastError
        rxLen := by simpa using hs.rxLen
        res0 := by simpa using hs.res0
        res1 := by simpa using hs.res1
        resLen := by simpa using hs.resLen }
  opened := by
    intro hi
    have hi : s.initDone = true := by simpa using hi
    have hcodec := writeReg_locked s hi r v
    obtain ⟨-, -, -, hrk, hk0, hk1, hk2, hk3⟩ := codec_eq_iff.mp hcodec
    exact
      { legal := by simpa [hcodec] using (h.opened hi).legal
        schedule := by rw [hrk, hk0, hk1, hk2, hk3]; exact (h.opened hi).schedule
        armed := by simpa using (h.opened hi).armed }

/-- A word of the DATA window lies inside the buffer, whose capacity is a multiple of 4. -/
theorem writeDataWord_inv (h : s.Inv) {i : Nat} (h4 : i % 4 = 0) (hi : i < s.bufCap) (v : Word) :
    (writeDataWord s i v).Inv := by
  obtain ⟨hcap4, -, -⟩ := h.cap
  exact setData_inv h (h.data.writeBytes (by simp; omega))

theorem hostWrite_inv (h : s.Inv) {width : Nat} {off : Offset} {v : Word} (ht : hostWrite width off v s = .next t) :
    t.Inv := by
  rcases hostWrite_cases s ht with ⟨-, -, hcmd⟩ | ⟨r, -, -, rfl⟩ | ⟨i, hdata, rfl⟩
  · rcases runCommand_cases s hcmd with ⟨i, -, hexec⟩ | rfl
    · exact exec_inv h hexec
    · exact finish_inv h _
  · exact writeReg_inv h r v
  · obtain ⟨-, h4, hi, -⟩ := accessTarget_data hdata
    exact writeDataWord_inv h h4 hi v

theorem boundary_inv (h : s.Inv) (n : Nat) : (boundary n s).Inv := by
  have hinit (hrx : s.rxState = .receiving) : s.initDone = true :=
    initDone_of_rxState_ne_idle h (by rw [hrx]; decide)
  rcases boundary_cases s n with ⟨ht, -⟩ | ⟨hrx, -, ht⟩ | ⟨hrx, hmin, ht⟩ <;> rw [ht]
  · exact h
  · have hcount : State.Inv { s with errorsDetected := s.errorsDetected + 1 } :=
      setCounters_inv h (hinit hrx) _ _ _ _ _
    exact startReceive_inv (setLastError_inv hcount (hinit hrx) (e := .tooShort) rfl) (hinit hrx)
  · exact frameReady_inv h (hinit hrx) hmin (Nat.min_le_right _ _)

theorem sendComplete_inv (h : s.Inv) : (sendComplete s).Inv := by
  rcases sendComplete_cases s with ⟨-, ht⟩ | ⟨hbusy, ht⟩ <;> rw [ht]
  · exact h
  · exact setTransmit_inv h (initDone_of_txBusy h hbusy) false true

theorem rxByte_inv (h : s.Inv) (i : Nat) (b : Byte) : (rxByte i b s).Inv := by
  rcases rxByte_cases s i b with ⟨ht, -⟩ | ⟨-, hi, ht⟩ <;> rw [ht]
  · exact h
  · exact setRxBuf_inv h (h.rxBuf.write hi b)

/-- Whatever the engine held, a reset gives a well-kept one of the same capacity. -/
theorem resetEngine_inv (hcap : Config.LegalBufCap s.bufCap) (d : ResetDraw) : (resetEngine d s).Inv where
  cap := hcap
  data := bufferOk_drawnBuffer _ _
  rxBuf := bufferOk_drawnBuffer _ _
  txBuf := bufferOk_drawnBuffer _ _
  resLen := Nat.zero_le _
  rxLen := Nat.zero_le _
  ready := nofun
  lastError := rfl
  unopened := fun _ => ⟨rfl, rfl, rfl, rfl, rfl, rfl, rfl, rfl, rfl, rfl, rfl, rfl, rfl⟩
  opened := nofun

theorem runEvent_inv (h : s.Inv) {e : Event} (ht : runEvent e s = .next t) : t.Inv := by
  cases e with
  | hostRead width off =>
    obtain ⟨v, rfl⟩ := hostRead_cases s ht
    exact setEnv_inv h _
  | hostWrite width off v => exact hostWrite_inv h ht
  | rxByte i b => injection ht with ht; exact ht ▸ rxByte_inv h i b
  | boundary n => injection ht with ht; exact ht ▸ boundary_inv h n
  | sendComplete => injection ht with ht; exact ht ▸ sendComplete_inv h
  | reset d => injection ht with ht; exact ht ▸ resetEngine_inv h.cap d

end Invariant

/-- Settles O60: no clause is about the agents around the engine, so taking an event off and marking a bus error keep the
invariant, and so does every event. -/
theorem stepKeepsTheInvariant : Obligations.StepKeepsTheInvariant := by
  intro s t h ht
  have hpop : s.afterPop.Inv := setEnv_inv h _
  rcases step_cases s ht with ⟨-, rfl⟩ | ⟨e, rest, -, hrun | ⟨off, -, rfl⟩⟩
  · exact h
  · exact runEvent_inv hpop hrun
  · exact setEnv_inv hpop _

/-- Settles O59: `State.reset` is what the reset with an empty draw gives of itself. -/
theorem resetMeetsTheInvariant : Obligations.ResetMeetsTheInvariant :=
  { resetEngine_inv (s := State.reset) (by decide) ⟨[], [], [], []⟩ with }

end Sys2Proof.Machine
end

section
/-! The frame of the commands and of the events: what no command writes, the one step that an event is, and which events
write STATUS.CODE. -/

namespace Sys2Proof.Machine

section Frame
variable {s t : State}

/-! ### What no command writes -/

/-- The part of the state that no command writes: the operand and configuration registers (30_encoding.md R101), IRQ_ENABLE,
TX_DONE, the receive buffer and its length, the capacity, and what the agents do and see. -/
structure CommandFrame where
  args : Word × Word
  key : Word × Word × Word × Word
  config : BitVec 7 × Word × BitVec 16
  irqEnable : BitVec 3
  txDone : Bool
  received : Memory × BitVec 16
  bufCap : Nat
  agents : List Event × Option Word × List Offset

/-- That part of a state. -/
def State.commandFrame (s : State) : CommandFrame where
  args := (s.arg0, s.arg1)
  key := (s.key0, s.key1, s.key2, s.key3)
  config := (s.profile, s.sync, s.maxPayload)
  irqEnable := s.irqEnable
  txDone := s.txDone
  received := (s.rxBuf, s.rxLen)
  bufCap := s.bufCap
  agents := (s.env.pending, s.env.readData, s.env.hostFaults)

/-- The state fields that a kept frame keeps. -/
theorem commandFrame_eq_iff : t.commandFrame = s.commandFrame ↔
    t.arg0 = s.arg0 ∧ t.arg1 = s.arg1 ∧ t.key0 = s.key0 ∧ t.key1 = s.key1 ∧ t.key2 = s.key2 ∧ t.key3 = s.key3
      ∧ t.profile = s.profile ∧ t.sync = s.sync ∧ t.maxPayload = s.maxPayload ∧ t.irqEnable = s.irqEnable
      ∧ t.txDone = s.txDone ∧ t.rxBuf = s.rxBuf ∧ t.rxLen = s.rxLen ∧ t.bufCap = s.bufCap
      ∧ t.env.pending = s.env.pending ∧ t.env.readData = s.env.readData ∧ t.env.hostFaults = s.env.hostFaults := by
  simp only [State.commandFrame, CommandFrame.mk.injEq, Prod.mk.injEq, and_assoc]

/-- Every command completes (60_exceptions.md R257). -/
theorem exec_completes (i : Instr) (s : State) : ∃ t, exec i s = .next t := by
  by_cases hi : i = .init
  · rw [hi, exec]
    exact ⟨_, rfl⟩
  · obtain ⟨command, hexec⟩ := exists_whenReady hi s
    exact ⟨_, hexec⟩

/-- The hand-off of a frame writes nothing of the frame of the commands. -/
theorem handOff_commandFrame (s : State) (n : Nat) : (s.handOff n).commandFrame = s.commandFrame := by
  rcases handOff_cases s n with ⟨-, h⟩ | ⟨-, h⟩ <;> rw [h] <;> rfl

theorem exec_commandFrame {i : Instr} (h : exec i s = .next t) : t.commandFrame = s.commandFrame := by
  cases i with
  | init => rcases execInit_cases s h with rfl | ⟨-, -, rfl⟩ <;> rfl
  | encrypt => rcases execEncrypt_cases s h with rfl | ⟨-, rfl⟩ <;> rfl
  | decrypt => rcases execDecrypt_cases s h with rfl | ⟨-, rfl⟩ <;> rfl
  | cbcmac len => rcases execCbcmac_cases s h with rfl | rfl | ⟨-, -, r0, r1, rfl⟩ <;> rfl
  | khash len => rcases execKhash_cases s h with rfl | rfl | ⟨-, -, r0, r1, rfl⟩ <;> rfl
  | fenc len => rcases execFenc_cases s h with rfl | rfl | ⟨-, -, f, -, rfl⟩ <;> rfl
  | fdec len => rcases execFdec_cases s h with rfl | ⟨e, rfl⟩ | ⟨-, -, ctr, n, pl, -, -, rfl⟩ <;> rfl
  | send len =>
    rcases execSend_cases s h with rfl | ⟨-, rfl⟩ | rfl | ⟨-, -, -, f, -, rfl⟩
    · rfl
    · rfl
    · rfl
    · exact handOff_commandFrame (s.buildFrame f) f.length
  | procrx => rcases execProcrx_cases s h with rfl | ⟨-, -, ⟨e, -, rfl⟩ | ⟨ctr, n, -, ⟨-, rfl⟩ | ⟨-, rfl⟩⟩⟩ <;> rfl

/-! ### The one step that an event is -/

/-- What a step with an event at the head of the list can do: the event, or the mark of its bus error. -/
theorem step_cases_of_pending {e : Event} {rest : List Event} (hp : s.env.pending = e :: rest) (h : step s = .next t) :
    runEvent e s.afterPop = .next t
      ∨ ∃ off, runEvent e s.afterPop = .fault (.busError off) ∧ t = s.afterPop.markHostFault off :=
  settle_cases _ (step_of_pending s hp ▸ h)

/-- With that event taken off, the events to come are the rest. -/
theorem afterPop_eq {e : Event} {rest : List Event} (hp : s.env.pending = e :: rest) :
    s.afterPop = { s with env := { s.env with pending := rest } } := by
  rw [State.afterPop, hp, List.tail_cons]

/-- No host write changes the list of the events to come or the host's marks. -/
theorem hostWrite_agents {width : Nat} {off : Offset} {v : Word} (h : hostWrite width off v s = .next t) :
    t.env.pending = s.env.pending ∧ t.env.hostFaults = s.env.hostFaults := by
  rcases hostWrite_cases s h with ⟨-, -, hcmd⟩ | ⟨r, -, -, rfl⟩ | ⟨i, -, rfl⟩
  · rcases runCommand_cases s hcmd with ⟨i, -, hexec⟩ | rfl
    · obtain ⟨-, -, -, -, -, -, -, -, -, -, -, -, -, -, hpending, -, hfaults⟩ :=
        commandFrame_eq_iff.mp (exec_commandFrame hexec)
      exact ⟨hpending, hfaults⟩
    · exact ⟨rfl, rfl⟩
  · rw [writeReg_env]
    exact ⟨rfl, rfl⟩
  · exact ⟨rfl, rfl⟩

/-- No event changes the list of the events to come. -/
theorem runEvent_pending {e : Event} (h : runEvent e s = .next t) : t.env.pending = s.env.pending := by
  cases e with
  | hostRead width off =>
    obtain ⟨v, rfl⟩ := hostRead_cases s h
    rfl
  | hostWrite width off v => exact (hostWrite_agents h).1
  | rxByte i b =>
    injection h with h
    rcases rxByte_cases s i b with ⟨ht, -⟩ | ⟨-, -, ht⟩ <;> rw [← h, ht]
  | boundary n =>
    injection h with h
    rcases boundary_cases s n with ⟨ht, -⟩ | ⟨-, -, ht⟩ | ⟨-, -, ht⟩ <;> rw [← h, ht]
    rfl
  | sendComplete =>
    injection h with h
    rcases sendComplete_cases s with ⟨-, ht⟩ | ⟨-, ht⟩ <;> rw [← h, ht]
  | reset d =>
    injection h with h
    rw [← h, resetEngine]

/-- A step takes one event off the list. -/
theorem step_pending (h : step s = .next t) : t.env.pending = s.env.pending.tail := by
  rcases step_cases s h with ⟨hp, rfl⟩ | ⟨e, rest, -, hrun | ⟨off, -, rfl⟩⟩
  · rw [hp, List.tail_nil]
  · exact runEvent_pending hrun
  · rfl

/-! ### STATUS.CODE (60_exceptions.md R252) -/

/-- A 32-bit write at CMD's offset is a command event. -/
theorem isCommand_hostWrite {width : Nat} {off : Offset} (hw : width = 32) (ho : off = cmdOffset) (v : Word) :
    (Event.hostWrite width off v).isCommand = true := by
  simp [Event.isCommand, hw, ho]

theorem runEvent_statusCode {e : Event} (hcmd : e.isCommand = false) (hreset : e.isReset = false)
    (h : runEvent e s = .next t) : t.statusCode = s.statusCode := by
  cases e with
  | hostRead width off =>
    obtain ⟨v, rfl⟩ := hostRead_cases s h
    rfl
  | hostWrite width off v =>
    rcases hostWrite_cases s h with ⟨hw, ho, -⟩ | ⟨r, -, -, rfl⟩ | ⟨i, -, rfl⟩
    · exact absurd (isCommand_hostWrite hw ho v) (by simp [hcmd])
    · exact writeReg_statusCode s r v
    · rfl
  | rxByte i b =>
    injection h with h
    rcases rxByte_cases s i b with ⟨ht, -⟩ | ⟨-, -, ht⟩ <;> rw [← h, ht]
  | boundary n =>
    injection h with h
    rcases boundary_cases s n with ⟨ht, -⟩ | ⟨-, -, ht⟩ | ⟨-, -, ht⟩ <;> rw [← h, ht]
  | sendComplete =>
    injection h with h
    rcases sendComplete_cases s with ⟨-, ht⟩ | ⟨-, ht⟩ <;> rw [← h, ht]
  | reset d => contradiction

end Frame

/-! ### The obligations -/

/-- Settles O9: `exec_completes`, and the frame that no command writes. -/
theorem commandsCompleteAndKeepOperands : Obligations.CommandsCompleteAndKeepOperands := by
  intro i s
  obtain ⟨t, h⟩ := exec_completes i s
  exact ⟨t, h, commandFrame_eq_iff.mp (exec_commandFrame h)⟩

/-- Settles O7: the step dispatches the written word, and a completed command has nothing to settle. -/
theorem stepRunsDecodedCommand : Obligations.StepRunsDecodedCommand := by
  intro s v rest i hp hdecode _
  rw [step_of_cmd_write hp, runCommand_of_decode hdecode, ← afterPop_eq hp]
  obtain ⟨t, h⟩ := exec_completes i s.afterPop
  rw [h, settle_next]

/-- Settles O8: the step settles what the next event answers. -/
theorem stepTakesEventsInOrder : Obligations.StepTakesEventsInOrder := by
  refine ⟨fun s hp => by rw [step, State.nextEvent, hp], fun s s' e rest hp hs' => ?_⟩
  have hpop : s.afterPop = s' := (afterPop_eq hp).trans hs'.symm
  rw [step_of_pending s hp, hpop]
  refine ⟨fun t ht => by rw [ht, settle_next], fun off hfault => ?_⟩
  rw [hfault, settle_busError, State.markHostFault, Env.afterBusError]

/-- Settles O10: no other event writes STATUS.CODE, and neither does a step without one. -/
theorem onlyCommandsWriteStatusCode : Obligations.OnlyCommandsWriteStatusCode := by
  intro s t h hne
  rcases step_cases s h with ⟨-, rfl⟩ | ⟨e, rest, hp, hrun | ⟨off, -, rfl⟩⟩
  · contradiction
  · refine ⟨e, rest, hp, ?_⟩
    by_contra hother
    rw [not_or, Bool.not_eq_true, Bool.not_eq_true] at hother
    obtain ⟨hcmd, hreset⟩ := hother
    exact hne (runEvent_statusCode (s := s.afterPop) hcmd hreset hrun)
  · exact absurd rfl hne

end Sys2Proof.Machine
end

section
/-! What each event can do to the channel (44_replay_guard.md, 45_channel.md), said once, and the safety statements that
follow from it case by case. -/

namespace Sys2Proof.Machine

section Channel
variable {s t : State} {e : Event}

/-! ### The channel of an engine -/

/-- The part of the state that only the channel's own commands and events write: both state machines, both buffers, the
guard, the counters and the last receive error. -/
structure Channel where
  rxState : RxState
  rxBuf : Memory
  rxLen : BitVec 16
  txBusy : Bool
  txBuf : Memory
  txCounter : Word
  lastAccepted : Word
  packetsSent : Word
  packetsReceived : Word
  errorsDetected : Word
  lastError : Status

/-- That part of a state. -/
def State.channel (s : State) : Channel where
  rxState := s.rxState
  rxBuf := s.rxBuf
  rxLen := s.rxLen
  txBusy := s.txBusy
  txBuf := s.txBuf
  txCounter := s.txCounter
  lastAccepted := s.lastAccepted
  packetsSent := s.packetsSent
  packetsReceived := s.packetsReceived
  errorsDetected := s.errorsDetected
  lastError := s.lastError

/-- The state fields that a kept channel keeps. -/
theorem channel_eq_iff : t.channel = s.channel ↔
    t.rxState = s.rxState ∧ t.rxBuf = s.rxBuf ∧ t.rxLen = s.rxLen ∧ t.txBusy = s.txBusy ∧ t.txBuf = s.txBuf
      ∧ t.txCounter = s.txCounter ∧ t.lastAccepted = s.lastAccepted ∧ t.packetsSent = s.packetsSent
      ∧ t.packetsReceived = s.packetsReceived ∧ t.errorsDetected = s.errorsDetected ∧ t.lastError = s.lastError := by
  simp only [State.channel, Channel.mk.injEq]

/-- No register write reaches the channel. -/
theorem writeReg_channel (r : Reg) (v : Word) : (writeReg s r v).channel = s.channel := by
  simp [channel_eq_iff]

/-! ### What an event can do to it -/

/-- What one event in `s` can do to the channel: nothing, or one of the ten things that the spec names. -/
inductive ChannelEffect (s : State) : Event → State → Prop where
  /-- No field of the channel changes. -/
  | kept {e : Event} {t : State} (h : t.channel = s.channel) : ChannelEffect s e t
  /-- INIT (45_channel.md R202). -/
  | opened {e : Event} (hcmd : e.commandRun = some .init) (hinit : s.initDone = false)
      (hlegal : profileLegal s.codec s.bufCap = true) :
      ChannelEffect s e (s.openChannel.finish (openCode s.openChannel))
  /-- SEND, accepted by the transport (R205). -/
  | sent {e : Event} {len : Nat} {f : List Byte} (hcmd : e.commandRun = some (.send len)) (hidle : s.txBusy = false)
      (hmax : len ≤ s.codec.maxLen) :
      ChannelEffect s e (State.finish (State.setResLen { s.buildFrame f with
        env := s.env.afterSend f.length true
        txBusy := true
        packetsSent := s.packetsSent + 1 } f.length) .ok)
  /-- SEND, refused by the transport (R205). -/
  | sendRefused {e : Event} {len : Nat} {f : List Byte} (hcmd : e.commandRun = some (.send len)) (hidle : s.txBusy = false)
      (hmax : len ≤ s.codec.maxLen) :
      ChannelEffect s e
        (State.failLength { s.buildFrame f with env := s.env.afterSend f.length false } .transportFailure)
  /-- PROCESS_RX of a frame that it rejects (R207). -/
  | rejected {e : Event} {code : Status} (hcmd : e.commandRun = some .procrx) (hready : s.rxState = .frameReady)
      (hcode : code ≠ .ok) : ChannelEffect s e (s.reject code)
  /-- PROCESS_RX of a frame that it accepts (R207, R208). -/
  | delivered {e : Event} {ctr : Word} {pl : List Byte} (hcmd : e.commandRun = some .procrx)
      (hready : s.rxState = .frameReady) (haccept : accepts s.lastAccepted ctr = true) :
      ChannelEffect s e (s.deliver ctr pl)
  /-- A received byte (R231). -/
  | byte {i : Nat} {b : Byte} (hrx : s.rxState = .receiving) :
      ChannelEffect s (.rxByte i b) { s with rxBuf := s.rxBuf.write i b }
  /-- A boundary that comes too early (R233). -/
  | runt {n : Nat} (hrx : s.rxState = .receiving) (hmin : min n s.bufCap < s.codec.minFrame) :
      ChannelEffect s (.boundary n)
        (State.startReceive { s with errorsDetected := s.errorsDetected + 1, lastError := .tooShort })
  /-- A boundary that ends a reception (R233). -/
  | frameReady {n : Nat} (hrx : s.rxState = .receiving) (hmin : s.codec.minFrame ≤ min n s.bufCap) :
      ChannelEffect s (.boundary n) { s with rxLen := BitVec.ofNat 16 (min n s.bufCap), rxState := .frameReady }
  /-- The end of a send (R235). -/
  | sendDone (hbusy : s.txBusy = true) : ChannelEffect s .sendComplete { s with txBusy := false, txDone := true }
  /-- A reset (70_reset_and_hazards.md R281). -/
  | reset {d : ResetDraw} : ChannelEffect s (.reset d) (resetEngine d s)

/-- FrameCheck never reports OK. -/
theorem frameCheck_ne_bad_ok (c : Codec) (d : List Byte) : c.frameCheck d ≠ .bad .ok := by
  intro h
  rcases frameCheck_bad c h with he | he | he | he <;> contradiction

/-- The command of an event does to the channel what the event does. -/
theorem exec_channelEffect {i : Instr} (he : e.commandRun = some i) (h : exec i s = .next t) : ChannelEffect s e t := by
  cases i with
  | init =>
    rcases execInit_cases s h with rfl | ⟨hinit, hlegal, rfl⟩
    · exact .kept rfl
    · exact .opened he hinit hlegal
  | encrypt => rcases execEncrypt_cases s h with rfl | ⟨-, rfl⟩ <;> exact .kept rfl
  | decrypt => rcases execDecrypt_cases s h with rfl | ⟨-, rfl⟩ <;> exact .kept rfl
  | cbcmac len => rcases execCbcmac_cases s h with rfl | rfl | ⟨-, -, r0, r1, rfl⟩ <;> exact .kept rfl
  | khash len => rcases execKhash_cases s h with rfl | rfl | ⟨-, -, r0, r1, rfl⟩ <;> exact .kept rfl
  | fenc len => rcases execFenc_cases s h with rfl | rfl | ⟨-, -, f, -, rfl⟩ <;> exact .kept rfl
  | fdec len => rcases execFdec_cases s h with rfl | ⟨code, rfl⟩ | ⟨-, -, ctr, n, pl, -, -, rfl⟩ <;> exact .kept rfl
  | send len =>
    rcases execSend_cases s h with rfl | ⟨-, rfl⟩ | rfl | ⟨-, hidle, hmax, f, -, rfl⟩
    · exact .kept rfl
    · exact .kept rfl
    · exact .kept rfl
    · rcases handOff_cases (s.buildFrame f) f.length with ⟨-, ht⟩ | ⟨-, ht⟩ <;> rw [ht]
      · exact .sendRefused he hidle hmax
      · exact .sent he hidle hmax
  | procrx =>
    rcases execProcrx_cases s h with rfl | ⟨-, hready, ⟨code, hbad, rfl⟩ | ⟨ctr, n, -, ⟨-, rfl⟩ | ⟨haccept, rfl⟩⟩⟩
    · exact .kept rfl
    · exact .rejected he hready fun hok => frameCheck_ne_bad_ok _ _ (hok ▸ hbad)
    · exact .rejected he hready (by decide)
    · exact .delivered he hready haccept

theorem hostWrite_channelEffect {width : Nat} {off : Offset} {v : Word} (h : hostWrite width off v s = .next t) :
    ChannelEffect s (.hostWrite width off v) t := by
  rcases hostWrite_cases s h with ⟨hw, ho, hcmd⟩ | ⟨r, -, -, rfl⟩ | ⟨i, -, rfl⟩
  · rcases runCommand_cases s hcmd with ⟨i, hdecode, hexec⟩ | rfl
    · exact exec_channelEffect (by simp [Event.commandRun, hw, ho, hdecode]) hexec
    · exact .kept rfl
  · exact .kept (writeReg_channel r v)
  · exact .kept rfl

theorem runEvent_channelEffect (h : runEvent e s = .next t) : ChannelEffect s e t := by
  cases e with
  | hostRead width off =>
    obtain ⟨v, rfl⟩ := hostRead_cases s h
    exact .kept rfl
  | hostWrite width off v => exact hostWrite_channelEffect h
  | rxByte i b =>
    injection h with h
    rcases rxByte_cases s i b with ⟨ht, -⟩ | ⟨hrx, -, ht⟩ <;> rw [← h, ht]
    · exact .kept rfl
    · exact .byte hrx
  | boundary n =>
    injection h with h
    rcases boundary_cases s n with ⟨ht, -⟩ | ⟨hrx, hmin, ht⟩ | ⟨hrx, hmin, ht⟩ <;> rw [← h, ht]
    · exact .kept rfl
    · exact .runt hrx hmin
    · exact .frameReady hrx hmin
  | sendComplete =>
    injection h with h
    rcases sendComplete_cases s with ⟨-, ht⟩ | ⟨hbusy, ht⟩ <;> rw [← h, ht]
    · exact .kept rfl
    · exact .sendDone hbusy
  | reset d =>
    injection h with h
    rw [← h]
    exact .reset

/-- A step does to the channel what its event does; a bus error does nothing to it. -/
theorem step_channelEffect {rest : List Event} (hp : s.env.pending = e :: rest) (h : step s = .next t) :
    ChannelEffect s.afterPop e t := by
  rcases step_cases_of_pending hp h with hrun | ⟨off, -, rfl⟩
  · exact runEvent_channelEffect hrun
  · exact .kept rfl

/-- A step changes the channel only by an event, and then as that event does. -/
theorem step_channel_cases (h : step s = .next t) :
    t = s ∨ ∃ e rest, s.env.pending = e :: rest ∧ ChannelEffect s.afterPop e t := by
  cases hp : s.env.pending with
  | nil =>
    rcases step_cases s h with ⟨-, rfl⟩ | ⟨e, rest, hp', -⟩
    · exact .inl rfl
    · rw [hp] at hp'; contradiction
  | cons e rest => exact .inr ⟨e, rest, rfl, step_channelEffect hp h⟩

/-- The guard's test over unsigned values (44_replay_guard.md R191). -/
theorem accepts_iff {last c : Word} : accepts last c = true ↔ last.toNat < c.toNat ∨ last = 0 := by
  simp [accepts, BitVec.lt_def]

end Channel

/-! ### The replay guard (44_replay_guard.md) -/

/-- Settles O38: of all effects on the channel only an acceptance writes the guard, and it passed the guard's test. -/
theorem onlyProcrxMovesTheGuard : Obligations.OnlyProcrxMovesTheGuard := by
  intro s t h hne
  rcases step_channel_cases h with rfl | ⟨e, rest, hp, heffect⟩
  · contradiction
  refine ⟨e, rest, hp, ?_⟩
  cases heffect with
  | kept hkept =>
    obtain ⟨-, -, -, -, -, -, hlast, -⟩ := channel_eq_iff.mp hkept
    contradiction
  | delivered hcmd hready haccept => exact .inr ⟨hcmd, rfl, rfl, rfl, accepts_iff.mp haccept⟩
  | reset => exact .inl rfl
  | _ => exact absurd rfl hne

/-- Outside a reset a step does not lower the guard. -/
theorem step_lastAccepted_le {s t : State} (hr : s.resetNext = false) (h : step s = .next t) :
    s.lastAccepted.toNat ≤ t.lastAccepted.toNat := by
  by_cases hne : t.lastAccepted = s.lastAccepted
  · rw [hne]
  · obtain ⟨e, rest, hp, hreset | ⟨-, -, -, -, hlt | hzero⟩⟩ := onlyProcrxMovesTheGuard s t h hne
    · simp [isReset_of_resetNext hp hr] at hreset
    · exact hlt.le
    · simp [hzero]

/-- With no reset to come the next event is none. -/
theorem resetNext_eq_false {s : State} (hp : ∀ e ∈ s.env.pending, e.isReset = false) : s.resetNext = false := by
  rw [State.resetNext]
  split
  · rfl
  next e rest hpending => exact hp e (by simp [hpending])

/-- Settles O37: no step of the run lowers the guard, and each leaves fewer events to come. -/
theorem lastAcceptedNeverFallsInARun : Obligations.LastAcceptedNeverFallsInARun := by
  intro k
  induction k with
  | zero =>
    intro s t _ h
    injection h with h
    rw [h]
  | succ k ih =>
    intro s t hp h
    obtain ⟨u, hstep, hrun⟩ := run_succ_cases core h
    have hpu : ∀ e ∈ u.env.pending, e.isReset = false := fun e he =>
      hp e (List.mem_of_mem_tail (step_pending hstep ▸ he))
    exact (step_lastAccepted_le (resetNext_eq_false hp) hstep).trans (ih u t hpu hrun)

/-! ### The counters (45_channel.md R206, 10_state.md R38-R40) -/

/-- Settles O39: of all effects on the channel only the two of SEND write the counter. -/
theorem onlySendAdvancesTheCounter : Obligations.OnlySendAdvancesTheCounter := by
  intro s t h hne
  rcases step_channel_cases h with rfl | ⟨e, rest, hp, heffect⟩
  · contradiction
  refine ⟨e, rest, hp, ?_⟩
  cases heffect with
  | kept hkept =>
    obtain ⟨-, -, -, -, -, hcounter, -⟩ := channel_eq_iff.mp hkept
    contradiction
  | sent hcmd hidle hmax => exact .inr ⟨_, hcmd, hidle, hmax, rfl, rfl, .inl rfl⟩
  | sendRefused hcmd hidle hmax => exact .inr ⟨_, hcmd, hidle, hmax, rfl, rfl, .inr rfl⟩
  | reset => exact .inl rfl
  | _ => exact absurd rfl hne

/-- Settles O40: a SEND that returns OK, the two outcomes of PROCESS_RX and a runt are the effects that count. -/
theorem healthCountersCountTheirEvents : Obligations.HealthCountersCountTheirEvents := by
  intro s t e rest hp hreset h
  cases step_channelEffect hp h with
  | kept hkept =>
    obtain ⟨-, -, -, -, -, -, -, hsent, hreceived, herrors, -⟩ := channel_eq_iff.mp hkept
    exact ⟨.inl hsent, .inl hreceived, .inl herrors⟩
  | sent hcmd => exact ⟨.inr ⟨rfl, ⟨_, hcmd⟩, rfl⟩, .inl rfl, .inl rfl⟩
  | rejected hcmd hready hcode => exact ⟨.inl rfl, .inl rfl, .inr ⟨rfl, .inl ⟨hcmd, hcode, rfl⟩⟩⟩
  | delivered hcmd => exact ⟨.inl rfl, .inr ⟨rfl, hcmd, rfl⟩, .inl rfl⟩
  | runt hrx hmin => exact ⟨.inl rfl, .inl rfl, .inr ⟨rfl, .inr ⟨_, rfl, rfl⟩⟩⟩
  | reset => contradiction
  | _ => exact ⟨.inl rfl, .inl rfl, .inl rfl⟩

/-! ### The two state machines (45_channel.md R200, R201) -/

/-- Settles O41: each effect that writes RX_STATE is a row of the table; a refused re-arm after a runt is the one that
leaves RX_RECEIVING for RX_HALTED. -/
theorem receiveTransitions : Obligations.ReceiveTransitions := by
  intro s t e rest hinv hp h hne
  cases step_channelEffect hp h with
  | kept hkept =>
    obtain ⟨hrx, -⟩ := channel_eq_iff.mp hkept
    contradiction
  | opened hcmd hinit hlegal => exact .inl ⟨(hinv.unopened hinit).rxIdle, hcmd, hlegal, rfl⟩
  | frameReady hrx hmin => exact .inr (.inl ⟨_, hrx, rfl, hmin, rfl⟩)
  | runt hrx hmin =>
    have hrefused : s.nextArmAnswer = false := by
      by_contra hok
      rw [Bool.not_eq_false] at hok
      exact hne ((if_pos hok).trans hrx.symm)
    exact .inr (.inr (.inl ⟨_, hrx, rfl, hmin, hrefused, if_neg (ne_true_of_eq_false hrefused)⟩))
  | rejected hcmd hready => exact .inr (.inr (.inr (.inl ⟨hready, hcmd, rfl⟩)))
  | delivered hcmd hready => exact .inr (.inr (.inr (.inl ⟨hready, hcmd, rfl⟩)))
  | reset => exact .inr (.inr (.inr (.inr ⟨rfl, rfl⟩)))
  | _ => exact absurd rfl hne

/-- Settles O42: of all effects on the channel only an accepted SEND raises TX_BUSY, and only the end of the send and a
reset lower it. -/
theorem transmitTransitions : Obligations.TransmitTransitions := by
  intro s t e rest hp h
  have hsame (htx : t.txBusy = s.txBusy) :
      (s.txBusy = false → t.txBusy = true → (∃ len, e.commandRun = some (.send len)) ∧ t.statusCode = .ok)
      ∧ (s.txBusy = true → t.txBusy = false → (e = .sendComplete ∧ t.txDone = true) ∨ e.isReset = true) :=
    ⟨fun hs ht => absurd (hs.symm.trans (htx.symm.trans ht)) (by decide),
      fun hs ht => absurd (hs.symm.trans (htx.symm.trans ht)) (by decide)⟩
  cases step_channelEffect hp h with
  | kept hkept =>
    obtain ⟨-, -, -, htx, -⟩ := channel_eq_iff.mp hkept
    exact hsame htx
  | sent hcmd => exact ⟨fun _ _ => ⟨⟨_, hcmd⟩, rfl⟩, nofun⟩
  | sendDone => exact ⟨nofun, fun _ _ => .inl ⟨rfl, rfl⟩⟩
  | reset => exact ⟨nofun, fun _ _ => .inr rfl⟩
  | _ => exact hsame rfl

/-! ### A halted direction, a frame in flight, a ready frame -/

/-- PROCESS_RX with no frame ready only reports NOT_READY (45_channel.md R207). -/
theorem execProcrx_of_no_frame {s : State} (hi : s.initDone = true) (hrx : s.rxState ≠ .frameReady) :
    exec .procrx s = .next (s.finish .notReady) := by
  simp [exec, execProcrx, whenReady, hi, hrx]

/-- Settles O43: the receive effects need RX_RECEIVING or a ready frame, and INIT an engine that is not initialized. -/
theorem haltedReceptionStaysHalted : Obligations.HaltedReceptionStaysHalted := by
  intro s hi hhalt
  refine ⟨by rw [execProcrx_of_no_frame hi (by rw [hhalt]; decide), State.finish], fun t hr h => ?_⟩
  rcases step_channel_cases h with rfl | ⟨e, rest, hp, heffect⟩
  · exact ⟨hhalt, rfl, rfl, rfl, rfl, rfl, rfl⟩
  have hbusy {r : RxState} (hrx : s.rxState = r) (hne : r ≠ .halted) : False := hne (hrx.symm.trans hhalt)
  cases heffect with
  | kept hkept =>
    obtain ⟨hrx, hbuf, hlen, -, -, -, hlast, -, hreceived, herrors, herror⟩ := channel_eq_iff.mp hkept
    exact ⟨hrx.trans hhalt, hbuf, hlen, herrors, herror, hlast, hreceived⟩
  | opened hcmd hinit => exact absurd (hi.symm.trans hinit) (by decide)
  | rejected hcmd hready => exact (hbusy hready (by decide)).elim
  | delivered hcmd hready => exact (hbusy hready (by decide)).elim
  | byte hrx => exact (hbusy hrx (by decide)).elim
  | runt hrx => exact (hbusy hrx (by decide)).elim
  | frameReady hrx => exact (hbusy hrx (by decide)).elim
  | reset => cases isReset_of_resetNext hp hr
  | _ => exact ⟨hhalt, rfl, rfl, rfl, rfl, rfl, rfl⟩

/-- Settles O44: of all effects on the channel only those of SEND, which needs an idle transmitter, and a reset write
TX_BUF. -/
theorem inFlightFrameIsStable : Obligations.InFlightFrameIsStable := by
  intro s t hbusy hr h a
  rcases step_channel_cases h with rfl | ⟨e, rest, hp, heffect⟩
  · rfl
  cases heffect with
  | kept hkept =>
    obtain ⟨-, -, -, -, hbuf, -⟩ := channel_eq_iff.mp hkept
    rw [hbuf, afterPop_txBuf]
  | sent hcmd hidle => exact absurd (hbusy.symm.trans hidle) (by decide)
  | sendRefused hcmd hidle => exact absurd (hbusy.symm.trans hidle) (by decide)
  | reset => cases isReset_of_resetNext hp hr
  | _ => rfl

/-- Settles O45: each event of the transport by its own cases; with a ready frame the two of reception are stray. -/
theorem transportLeavesAReadyFrameAlone : Obligations.TransportLeavesAReadyFrameAlone := by
  intro s t e rest hp he h
  rcases step_cases_of_pending hp h with hrun | ⟨off, -, rfl⟩
  · cases e with
    | rxByte i b =>
      injection hrun with hrun
      rcases rxByte_cases s.afterPop i b with ⟨ht, -⟩ | ⟨hrx, -, ht⟩ <;> rw [← hrun, ht]
      · exact ⟨fun hs => ⟨hs, rfl, rfl⟩, id, id⟩
      · exact ⟨fun hs => absurd (hrx.symm.trans hs) (by decide), id, id⟩
    | boundary n =>
      injection hrun with hrun
      rcases boundary_cases s.afterPop n with ⟨ht, -⟩ | ⟨hrx, -, ht⟩ | ⟨hrx, -, ht⟩ <;> rw [← hrun, ht]
      · exact ⟨fun hs => ⟨hs, rfl, rfl⟩, id, id⟩
      · exact ⟨fun hs => absurd (hrx.symm.trans hs) (by decide), id, id⟩
      · exact ⟨fun hs => absurd (hrx.symm.trans hs) (by decide), id, id⟩
    | sendComplete =>
      injection hrun with hrun
      rcases sendComplete_cases s.afterPop with ⟨-, ht⟩ | ⟨-, ht⟩ <;> rw [← hrun, ht]
      · exact ⟨fun hs => ⟨hs, rfl, rfl⟩, id, id⟩
      · exact ⟨fun hs => ⟨hs, rfl, rfl⟩, fun _ => rfl, fun _ => rfl⟩
    | hostRead width off => contradiction
    | hostWrite width off v => contradiction
    | reset d => contradiction
  · exact ⟨fun hs => ⟨hs, rfl, rfl⟩, id, id⟩

end Sys2Proof.Machine
end

section
/-! The exact next state of each command once INIT is done: what it writes, and by equality of the whole state nothing
else. -/

namespace Sys2Proof.Machine

section Commands
variable {s t : State}

/-- A waiting command once INIT is done. -/
theorem whenReady_of_initDone (hi : s.initDone = true) (command : State → State) :
    whenReady s command = .next (command s) := by
  simp [whenReady, hi]

/-- A read after writing a sequence from index 0 up. -/
theorem read_writeBytes_zero {m : Memory} (h : m.wf) (bs : List Byte) (a : Nat) :
    (m.writeBytes 0 bs).read a = if a < bs.length then bs.getD a 0 else m.read a := by
  simp [read_writeBytes h]

/-- The two words of an 8-byte tag, written back, are the tag. -/
theorem serLE_le32_halves {tag : List Byte} (h : tag.length = 8) :
    serLE 4 (le32 (tag.take 4)).toNat ++ serLE 4 (le32 (tag.drop 4)).toNat = tag := by
  rw [serLE_le32 (by simp [h]), serLE_le32 (by simp [h]), List.take_append_drop]

@[simp] theorem cbcMac_length (rk : KeySchedule) (d : List Byte) : (cbcMac rk d).length = 8 := toBytes_length _

/-! ### Lengths that the commands refuse -/

theorem execCbcmac_of_too_long (hi : s.initDone = true) {len : Nat} (h : s.bufCap < len) :
    execCbcmac len s = .next (s.finish .invalidArgument) := by
  rw [execCbcmac, whenReady_of_initDone hi, if_pos h]

theorem execKhash_of_too_long (hi : s.initDone = true) {len : Nat} (h : s.bufCap < len) :
    execKhash len s = .next (s.finish .invalidArgument) := by
  rw [execKhash, whenReady_of_initDone hi, if_pos h]

theorem execFenc_of_too_large (hi : s.initDone = true) {len : Nat} (h : s.codec.maxLen < len) :
    execFenc len s = .next (s.failLength .tooLarge) := by
  rw [execFenc, whenReady_of_initDone hi, if_pos h]

theorem execFdec_of_too_long (hi : s.initDone = true) {len : Nat} (h : s.bufCap < len) :
    execFdec len s = .next (s.failLength .invalidArgument) := by
  rw [execFdec, whenReady_of_initDone hi, if_pos h]

/-! ### FRAME_ENCODE and FRAME_DECODE -/

/-- FRAME_ENCODE of a payload of at most MAX bytes (43_frame_codec.md R172). -/
theorem execFenc_of_le (hi : s.initDone = true) {len : Nat} (h : len ≤ s.codec.maxLen) {f : List Byte}
    (hf : f = s.codec.frameEncode s.arg0 (s.dataPrefix len)) :
    execFenc len s = .next { s with
      data := s.data.writeBytes 0 f
      res0 := s.arg0
      resLen := BitVec.ofNat 16 f.length
      statusCode := .ok } := by
  rw [execFenc, whenReady_of_initDone hi, if_neg (Nat.not_lt.mpr h), ← hf]
  rfl

/-- FRAME_DECODE of a range that decodes (43_frame_codec.md R173). -/
theorem execFdec_of_frame (hi : s.initDone = true) {len : Nat} (h : len ≤ s.bufCap) {ctr : Word} {pl : List Byte}
    (hd : s.codec.frameDecode (s.dataPrefix len) = .frame ctr pl) :
    execFdec len s = .next { s with
      data := s.data.writeBytes 0 pl
      res0 := ctr
      resLen := BitVec.ofNat 16 pl.length
      statusCode := .ok } := by
  rw [execFdec, whenReady_of_initDone hi, if_neg (Nat.not_lt.mpr h), hd]
  rfl

/-- FRAME_DECODE of a range that does not decode (43_frame_codec.md R173). -/
theorem execFdec_of_bad (hi : s.initDone = true) {len : Nat} (h : len ≤ s.bufCap) {code : Status}
    (hd : s.codec.frameDecode (s.dataPrefix len) = .bad code) : execFdec len s = .next (s.failLength code) := by
  rw [execFdec, whenReady_of_initDone hi, if_neg (Nat.not_lt.mpr h), hd]

/-! ### SEND -/

/-- Both outcomes of the hand-off in one state: the answer decides what was written (45_channel.md R205). -/
theorem handOff_eq (s : State) (n : Nat) : s.handOff n =
    { s with
      txBusy := s.nextSendAnswer || s.txBusy
      packetsSent := if s.nextSendAnswer then s.packetsSent + 1 else s.packetsSent
      resLen := if s.nextSendAnswer then BitVec.ofNat 16 n else 0
      env := s.env.afterSend n s.nextSendAnswer
      statusCode := if s.nextSendAnswer then .ok else .transportFailure } := by
  rcases handOff_cases s n with ⟨hanswer, h⟩ | ⟨hanswer, h⟩ <;> rw [h, hanswer] <;> rfl

/-- SEND while a send is outstanding. -/
theorem execSend_of_busy (hi : s.initDone = true) (hbusy : s.txBusy = true) (len : Nat) :
    execSend len s = .next (s.failLength .busy) := by
  rw [execSend, whenReady_of_initDone hi, if_pos hbusy]

/-- SEND of a payload above MAX. -/
theorem execSend_of_too_large (hi : s.initDone = true) (hidle : s.txBusy = false) {len : Nat}
    (h : s.codec.maxLen < len) : execSend len s = .next (s.failLength .tooLarge) := by
  rw [execSend, whenReady_of_initDone hi, if_neg (ne_true_of_eq_false hidle), if_pos h]

/-- SEND that builds a frame. -/
theorem execSend_of_le (hi : s.initDone = true) (hidle : s.txBusy = false) {len : Nat} (h : len ≤ s.codec.maxLen)
    {f : List Byte} (hf : f = s.codec.frameEncode (s.txCounter + 1) (s.dataPrefix len)) :
    execSend len s = .next ((s.buildFrame f).handOff f.length) := by
  rw [execSend, whenReady_of_initDone hi, if_neg (ne_true_of_eq_false hidle), if_neg (Nat.not_lt.mpr h), ← hf]

/-! ### PROCESS_RX -/

section ReadyFrame
variable (hi : s.initDone = true) (hready : s.rxState = .frameReady)
include hi hready

/-- PROCESS_RX of a frame that fails FrameCheck. -/
theorem execProcrx_of_bad {code : Status} (hc : s.codec.frameCheck s.received = .bad code) :
    execProcrx s = .next (s.reject code) := by
  rw [execProcrx, whenReady_of_initDone hi, if_pos hready, hc]

/-- PROCESS_RX of a frame that the guard rejects. -/
theorem execProcrx_of_replay {ctr : Word} {n : Nat} (hc : s.codec.frameCheck s.received = .checked ctr n)
    (ha : accepts s.lastAccepted ctr = false) : execProcrx s = .next (s.reject .replay) := by
  rw [execProcrx, whenReady_of_initDone hi, if_pos hready, hc]
  exact congrArg _ (if_neg (ne_true_of_eq_false ha))

/-- PROCESS_RX of a frame that it accepts. -/
theorem execProcrx_of_accepted {ctr : Word} {n : Nat} (hc : s.codec.frameCheck s.received = .checked ctr n)
    (ha : accepts s.lastAccepted ctr = true) :
    execProcrx s = .next (s.deliver ctr (s.codec.payloadOf s.received ctr n)) := by
  rw [execProcrx, whenReady_of_initDone hi, if_pos hready, hc]
  exact congrArg _ (if_pos ha)

end ReadyFrame

/-- The guard rejects a counter exactly when it is not above the last one, the bootstrap case apart. -/
theorem accepts_eq_false_iff {last c : Word} : accepts last c = false ↔ c.toNat ≤ last.toNat ∧ last ≠ 0 := by
  rw [← Bool.not_eq_true, accepts_iff, not_or, Nat.not_lt]

end Commands

/-! ### The obligations of the cipher, the MACs and the codec -/

/-- Settles O14: each command is its cipher direction once INIT is done. -/
theorem cipherCommandsWriteTheirResult : Obligations.CipherCommandsWriteTheirResult := by
  intro s hi
  constructor
  · rw [exec, execEncrypt, whenReady_of_initDone hi]
    rfl
  · rw [exec, execDecrypt, whenReady_of_initDone hi]
    rfl

/-- Settles O16: the halves of the hash are its low bits and its bits from 32 up. -/
theorem khashWritesTheTag : Obligations.KhashWritesTheTag := by
  intro len s hi
  refine ⟨fun hlen => ⟨_, rfl, ?_⟩, execKhash_of_too_long hi⟩
  rw [exec, execKhash, whenReady_of_initDone hi, if_neg (Nat.not_lt.mpr hlen)]
  rw [BitVec.setWidth_eq_extractLsb' (by decide), BitVec.setWidth_ushiftRight_eq_extractLsb]
  rfl

/-- Settles O20: the two words are the halves of the tag, and writing them back gives it. -/
theorem cbcmacWritesTheTag : Obligations.CbcmacWritesTheTag := by
  intro len s hi
  refine ⟨fun hlen => ⟨_, _, serLE_le32_halves (cbcMac_length s.rk (s.dataPrefix len)), ?_⟩, execCbcmac_of_too_long hi⟩
  rw [exec, execCbcmac, whenReady_of_initDone hi, if_neg (Nat.not_lt.mpr hlen)]
  rfl

/-- Settles O28: the frame is written from byte 0 up and read back by index. -/
theorem fencWritesTheFrame : Obligations.FencWritesTheFrame := by
  refine fun len s hi => ⟨fun hlen hwf => ?_, execFenc_of_too_large hi⟩
  exact ⟨_, _, rfl, execFenc_of_le hi hlen rfl, rfl, read_writeBytes_zero hwf _⟩

/-- Settles O29: the three outcomes of FRAME_DECODE, the payload read back by index. -/
theorem fdecWritesThePayload : Obligations.FdecWritesThePayload := by
  refine fun len s hi => ⟨fun ctr pl hlen hwf hd => ?_, fun code hlen hd => execFdec_of_bad hi hlen hd,
    execFdec_of_too_long hi⟩
  exact ⟨_, execFdec_of_frame hi hlen hd, rfl, read_writeBytes_zero hwf _⟩

/-- Settles O30: what FRAME_ENCODE wrote reads back as the frame, which decodes to the counter and the payload. -/
theorem fdecUndoesFenc : Obligations.FdecUndoesFenc := by
  intro s len hinv hi hmax
  obtain ⟨f, hf⟩ : ∃ f, f = s.codec.frameEncode s.arg0 (s.dataPrefix len) := ⟨_, rfl⟩
  have hpl : (s.dataPrefix len).length ≤ s.codec.maxLen := by simpa using hmax
  have hfit : f.length ≤ s.bufCap := hf ▸ frameEncode_fits hinv hi s.arg0 hpl
  obtain ⟨-, -, hcap⟩ := hinv.cap
  have hresLen : (BitVec.ofNat 16 f.length).toNat = f.length := Nat.mod_eq_of_lt (by omega)
  have hdecode : s.codec.frameDecode f = .frame s.arg0 (s.dataPrefix len) := by
    simpa [hf] using frameRoundTrip s.codec s.bufCap s.arg0 (s.dataPrefix len) [] (hinv.opened hi).legal hpl
  obtain ⟨t, hfenc, hcodec, hdata, htlen, hti, htcap⟩ : ∃ t, exec (.fenc len) s = .next t ∧ t.codec = s.codec
      ∧ t.data = s.data.writeBytes 0 f ∧ t.resLen.toNat = f.length ∧ t.initDone = true ∧ t.bufCap = s.bufCap :=
    ⟨_, execFenc_of_le hi hmax hf, rfl, rfl, hresLen, hi, rfl⟩
  have hrange : t.dataPrefix t.resLen.toNat = f := by
    rw [State.dataPrefix, htlen, hdata, readBytes_writeBytes hinv.data.canonical]
  have htwf : t.data.wf := hdata ▸ writeBytes_wf hinv.data.canonical 0 f
  have hfdec := execFdec_of_frame hti (htlen.trans_le (hfit.trans_eq htcap.symm)) (hrange ▸ hcodec ▸ hdecode)
  refine ⟨t, _, hfenc, hfdec, rfl, rfl, ?length, ?payload⟩
  case length =>
    have hlen : len ≤ f.length := by rw [hf, frameEncode_length, dataPrefix_length]; omega
    simpa using Nat.mod_eq_of_lt (show len < 65536 by omega)
  case payload =>
    have hback := readBytes_writeBytes htwf 0 (s.dataPrefix len)
    rwa [dataPrefix_length] at hback

/-! ### The obligations of the channel's commands -/

/-- Settles O32: the arm's answer decides RX_STATE and, through it, the code. -/
theorem initOpensTheChannel : Obligations.InitOpensTheChannel := by
  refine fun s => ⟨fun hi hlegal => ?opens, fun hrefused => ?refuses⟩
  case opens =>
    have hcode : openCode s.openChannel = if s.nextArmAnswer then .ok else .transportFailure := by
      rw [openCode, openChannel_eq]
      cases s.nextArmAnswer <;> rfl
    rw [exec, execInit, if_neg (ne_true_of_eq_false hi), if_pos hlegal, hcode]
    rfl
  case refuses =>
    rw [exec, execInit]
    rcases hrefused with hi | hillegal
    · rw [if_pos hi, State.finish]
    · rw [if_neg (ne_true_of_eq_false hillegal), ite_self, State.finish]

/-- Settles O33: BUSY first, then TOO_LARGE, else the frame that is built and handed off. -/
theorem sendHandsOverTheFrame : Obligations.SendHandsOverTheFrame := by
  refine fun len s hi => ⟨fun hbusy => execSend_of_busy hi hbusy len,
    fun hidle hlen => execSend_of_too_large hi hidle hlen, fun hidle hlen hwf => ?_⟩
  refine ⟨_, _, rfl, execSend_of_le hi hidle hlen rfl, ?state, ?frame⟩
  case state =>
    rw [handOff_eq, buildFrame_txBusy, hidle, Bool.or_false]
    rfl
  case frame =>
    intro a
    rw [handOff_eq]
    exact read_writeBytes_zero hwf _ a

/-- Settles O34: the guard's premise is that of `accepts`, and the delivered payload has the declared length. -/
theorem procrxDeliversAnAcceptedFrame : Obligations.ProcrxDeliversAnAcceptedFrame := by
  intro s ctr n hi hready hwf hc hguard
  obtain ⟨pl, hpl⟩ : ∃ pl, pl = s.codec.payloadOf s.received ctr n := ⟨_, rfl⟩
  have hlen : pl.length = n := hpl ▸ payloadOf_length s.codec hc ctr
  refine ⟨s.deliver ctr pl, pl, hpl, hlen, hpl ▸ execProcrx_of_accepted hi hready hc (accepts_iff.mpr hguard), ?state,
    fun a => ?data⟩
  case state =>
    rw [deliver_eq, hlen]
    rfl
  case data =>
    have hread := read_writeBytes_zero hwf pl a
    rwa [hlen] at hread

/-- Settles O35: the two ways to a rejection, and NOT_READY without a frame. -/
theorem procrxDropsARejectedFrame : Obligations.ProcrxDropsARejectedFrame := by
  refine fun s hi => ⟨fun code hready hbad => ?_, execProcrx_of_no_frame hi⟩
  rcases hbad with hbad | ⟨rfl, hlast, ctr, n, hc, hle⟩
  · exact execProcrx_of_bad hi hready hbad
  · exact execProcrx_of_replay hi hready hc (accepts_eq_false_iff.mpr ⟨hle, hlast⟩)

/-- Settles O36: an acceptance leaves the received bytes and the codec alone and puts the frame's own counter into the
guard, which then rejects it. -/
theorem acceptedFrameIsNotAcceptedAgain : Obligations.AcceptedFrameIsNotAcceptedAgain := by
  intro s t u hi hready ht hok hctr hu
  rcases execProcrx_cases s ht with rfl | ⟨-, -, ⟨code, hbad, rfl⟩ | ⟨ctr, n, hc, ⟨-, rfl⟩ | ⟨-, rfl⟩⟩⟩
  · contradiction
  · obtain rfl : code = .ok := hok
    exact absurd hbad (frameCheck_ne_bad_ok _ _)
  · contradiction
  · have hreject : accepts ctr ctr = false := accepts_eq_false_iff.mpr ⟨Nat.le_refl _, hctr⟩
    have hagain := execProcrx_of_replay (s := { s.deliver ctr (s.codec.payloadOf s.received ctr n) with
      rxState := .frameReady }) hi rfl hc hreject
    injection hagain.symm.trans hu with hu
    subst hu
    exact ⟨rfl, rfl, rfl⟩

end Sys2Proof.Machine
end

section
/-! The key schedule by its recurrence (40_cipher.md R114), and the padding collision that the MAC keeps (42_cbc_mac.md
R149). -/

namespace Sys2Proof.Machine

/-! ### The key schedule -/

/-- The words between which one line of the recurrence steps: k[i], and l[i], l[i+1], l[i+2] (R114). -/
structure ScheduleWords where
  k : Word
  l0 : Word
  l1 : Word
  l2 : Word

/-- The word l[i+3] (R114). -/
def ScheduleWords.next (w : ScheduleWords) (i : Nat) : Word :=
  (w.k + ror32 w.l0 Config.alpha) ^^^ BitVec.ofNat 32 i

/-- The words at index `i`, from those at 0. -/
def scheduleWords (w : ScheduleWords) : Nat → ScheduleWords
  | 0 => w
  | i + 1 =>
    let v := scheduleWords w i
    ⟨rol32 v.k Config.beta ^^^ v.next i, v.l1, v.l2, v.next i⟩

/-- The keys that `nextKeys` lists are those of the recurrence. -/
theorem nextKeys_eq_map_scheduleWords (w : ScheduleWords) (n i : Nat) :
    nextKeys n i (scheduleWords w i).k (scheduleWords w i).l0 (scheduleWords w i).l1 (scheduleWords w i).l2
      = (List.range n).map fun j => (scheduleWords w (i + (j + 1))).k := by
  induction n generalizing i with
  | zero => rfl
  | succ n ih =>
    have hshift (j : Nat) : i + (j + 1 + 1) = i + 1 + (j + 1) := by omega
    rw [List.range_succ_eq_map, List.map_cons, List.map_map, nextKeys]
    simp only [Function.comp_def, Nat.succ_eq_add_one, hshift]
    exact congrArg _ (ih (i + 1))

/-- The round keys are the words k[0] to k[26]. -/
theorem keySchedule_toList (w : ScheduleWords) :
    (keySchedule w.k w.l0 w.l1 w.l2).toList = (List.range 27).map fun i => (scheduleWords w i).k := by
  have htail := nextKeys_eq_map_scheduleWords w 26 0
  simp only [Nat.zero_add] at htail
  rw [List.range_succ_eq_map, List.map_cons, List.map_map]
  exact congrArg (w.k :: ·) htail

/-- Round key `i` is k[i]. -/
theorem keySchedule_getElem (w : ScheduleWords) {i : Nat} (hi : i < 27) :
    (keySchedule w.k w.l0 w.l1 w.l2)[i] = (scheduleWords w i).k := by
  rw [← Vector.getElem_toList (by simpa using hi)]
  simp [keySchedule_toList]

/-- Settles O13: `scheduleWords` holds k[i] and l[i], and each of its steps is a line of the recurrence. -/
theorem keyScheduleRecurrence : Obligations.KeyScheduleRecurrence := by
  intro k0 k1 k2 k3
  refine ⟨fun i => (scheduleWords ⟨k0, k1, k2, k3⟩ i).k, fun i => (scheduleWords ⟨k0, k1, k2, k3⟩ i).l0,
    rfl, rfl, rfl, rfl, fun i _ => ?_, fun i hi => keySchedule_getElem ⟨k0, k1, k2, k3⟩ hi⟩
  rw [← ror32_eq (by decide), ← rol32_eq (by decide)]
  exact ⟨rfl, rfl⟩

/-! ### The collision of the padding -/

/-- Padding a padded input changes nothing: it is whole blocks, at least one. -/
theorem macPad_macPad (d : List Byte) : macPad (macPad d) = macPad d := by
  obtain ⟨haligned, hpos⟩ := macPad_length d
  exact macPad_of_aligned _ haligned (List.ne_nil_of_length_pos hpos)

/-- Settles O19: the tag is a function of the padded input. -/
theorem paddedInputHasTheSameTag : Obligations.PaddedInputHasTheSameTag := by
  intro rk d
  simp only [cbcMac, macTag, macBlocks, macPad_macPad]

end Sys2Proof.Machine
end

section
/-! The frame codec (43_frame_codec.md): serialized bytes by their index, the fields of a frame, FrameCheck's outcomes and
what they depend on, and the quantities of a profile. -/

namespace Sys2Proof.Machine

/-! ### Serialization (00_scope.md R9) -/

/-- Serializing back a value that was read, in either order. -/
theorem ser_deser (bs : List Byte) (o : Order) : ser bs.length (deser bs o) o = bs := by
  cases o with
  | le => exact serLE_deserLE bs
  | be => rw [ser, deser, ← List.length_reverse, serLE_deserLE, List.reverse_reverse]

/-- Settles O21: byte i from the low end, or from the high end. -/
theorem serializationByByte : Obligations.SerializationByByte := by
  refine ⟨fun n v i hi => ⟨serLE_getElem? hi v, ?_⟩, ser_deser⟩
  rw [ser, List.getElem?_reverse (by simpa using hi), serLE_length, serLE_getElem? (by omega)]

/-! ### Slices of a cut sequence -/

/-- Cutting a sequence off behind a field leaves the field. -/
theorem slice_take {d : List Byte} {a n m : Nat} (h : a + n ≤ m) : slice (d.take m) a n = slice d a n := by
  rw [slice, slice, List.drop_take, List.take_take, Nat.min_eq_left (by omega)]

section Codec
variable (c : Codec)

/-! ### The quantities of a profile (R161) -/

/-- The two bits of PROFILE.AUTH (10_state.md R33). -/
theorem authenticator_eq : c.authenticator =
    if c.profile.getLsbD 1 then (if c.profile.getLsbD 0 then .checksum32 else .checksum16)
    else if c.profile.getLsbD 0 then .keyedHash else .cipherMac := by
  rw [Codec.authenticator]
  generalize c.profile = p
  revert p
  decide

theorem syncLen_eq : c.syncLen = (c.profile >>> 5).toNat + 1 := by
  rw [Codec.syncLen]
  generalize c.profile = p
  revert p
  decide

theorem lenBytes_eq : c.lenBytes = if c.profile.getLsbD 4 then 2 else 1 := by
  rw [Codec.lenBytes]
  generalize c.profile = p
  revert p
  decide

theorem tagLen_eq : c.tagLen = if c.profile.getLsbD 1 = false then 8 else if c.profile.getLsbD 0 then 4 else 2 := by
  rw [Codec.tagLen, authenticator_eq]
  cases c.profile.getLsbD 1 <;> cases c.profile.getLsbD 0 <;> rfl

/-- The tag by the bits of PROFILE.AUTH (R167). -/
theorem auth_eq (d : List Byte) : c.auth d =
    if c.profile.getLsbD 1 then
      if c.profile.getLsbD 0 then ser 4 (Config.checksum32 d).toNat c.order
      else ser 2 (Config.checksum16 d).toNat c.order
    else
      if c.profile.getLsbD 0 then serLE 8 (keyedHash (c.key1 ++ c.key0) (c.key3 ++ c.key2) d).toNat
      else cbcMac c.rk d := by
  rw [Codec.auth, authenticator_eq]
  cases c.profile.getLsbD 1 <;> cases c.profile.getLsbD 0 <;> rfl

/-- The legal profiles by their two conditions (45_channel.md R203). -/
theorem profileLegal_iff (cap : Nat) : profileLegal c cap = true ↔
    ¬ (c.profile.getLsbD 4 = false ∧ 255 < c.maxLen) ∧ ¬ (cap < c.headerLen + c.maxLen + c.tagLen) := by
  have hwidth : c.lenBytes = 1 ↔ c.profile.getLsbD 4 = false := by
    rw [lenBytes_eq]
    cases c.profile.getLsbD 4 <;> simp
  simp only [profileLegal, Bool.and_eq_true, Bool.not_eq_true', ← Bool.not_eq_true, beq_iff_eq, decide_eq_true_eq]
  rw [hwidth, Bool.not_eq_true]

/-! ### FrameCheck (R170) -/

variable {d : List Byte}

/-- FrameCheck accepts exactly the ranges that pass every test. -/
theorem frameCheck_checked_iff {ctr : Word} {m : Nat} : c.frameCheck d = .checked ctr m ↔
    c.minFrame ≤ d.length ∧ d.take c.syncLen = c.syncBytes ∧ c.declaredLen d ≤ c.maxLen
      ∧ c.headerLen + c.declaredLen d + c.tagLen ≤ d.length
      ∧ slice d (c.headerLen + c.declaredLen d) c.tagLen = c.auth (d.take (c.headerLen + c.declaredLen d))
      ∧ m = c.declaredLen d ∧ ctr = c.counterOf d := by
  constructor
  · intro h
    obtain ⟨hmin, hsync, rfl, hmax, hlen, htag, hctr⟩ := frameCheck_checked c h
    exact ⟨hmin, hsync, hmax, hlen, htag, rfl, hctr⟩
  · rintro ⟨hmin, hsync, hmax, hlen, htag, rfl, rfl⟩
    rw [Codec.frameCheck, if_neg (Nat.not_lt.mpr hmin), if_neg (not_not.mpr hsync), if_neg (by omega),
      if_neg (not_not.mpr htag)]

/-- FrameCheck of an accepted range reads its declared extent only: any other range that begins with it is accepted with
the same counter and length (R171). -/
theorem frameCheck_congr_extent {d' : List Byte} {ctr : Word} {n : Nat} (h : c.frameCheck d = .checked ctr n)
    (hlen : c.headerLen + n + c.tagLen ≤ d'.length)
    (htake : d'.take (c.headerLen + n + c.tagLen) = d.take (c.headerLen + n + c.tagLen)) :
    c.frameCheck d' = .checked ctr n := by
  obtain ⟨-, hsync, hmax, -, htag, rfl, rfl⟩ := (frameCheck_checked_iff c).mp h
  generalize hn : c.declaredLen d = n at *
  have hH : c.headerLen = c.syncLen + 4 + c.lenBytes := rfl
  have hslice {a k : Nat} (hin : a + k ≤ c.headerLen + n + c.tagLen) : slice d' a k = slice d a k := by
    rw [← slice_take hin, htake, slice_take hin]
  have hprefix {k : Nat} (hin : k ≤ c.headerLen + n + c.tagLen) : d'.take k = d.take k := by
    rw [← Nat.min_eq_left hin, ← List.take_take, htake, List.take_take]
  have hdeclared : c.declaredLen d' = n := by rw [Codec.declaredLen, hslice (by omega), ← hn, Codec.declaredLen]
  have hcounter : c.counterOf d = c.counterOf d' := by rw [Codec.counterOf, Codec.counterOf, hslice (by omega)]
  rw [frameCheck_checked_iff, hdeclared, hcounter, hprefix (by omega), hprefix (by omega), hslice (by omega)]
  exact ⟨by rw [Codec.minFrame]; omega, hsync, hmax, hlen, htag, rfl, rfl⟩

end Codec

/-! ### The obligations -/

/-- Settles O26: both ranges begin with the declared extent of the accepted one. -/
theorem onlyTheDeclaredExtentMatters : Obligations.OnlyTheDeclaredExtentMatters := by
  intro c d rest ctr n h
  obtain ⟨-, -, -, -, hlen, -, -⟩ := frameCheck_checked c h
  exact ⟨frameCheck_congr_extent c h (by simp; omega) (List.take_append_of_le_length hlen),
    frameCheck_congr_extent c h (by simp [hlen]) (by rw [List.take_take, Nat.min_self])⟩

/-- Settles O27: the tests in their order; where one fails it is the outcome, and where all pass the range is checked. -/
theorem frameCheckOrder : Obligations.FrameCheckOrder := by
  rintro c d n rfl
  rw [Codec.frameCheck, Codec.declaredLen, Codec.counterOf]
  generalize deser (slice d (c.syncLen + 4) c.lenBytes) c.order = n
  by_cases hshort : d.length < c.minFrame
  · simp [hshort, Nat.not_le.mpr hshort]
  have hmin : c.minFrame ≤ d.length := Nat.not_lt.mp hshort
  by_cases hsync : d.take c.syncLen = c.syncBytes
  case neg => simp [hshort, hmin, hsync]
  by_cases hbad : c.maxLen < n ∨ d.length < c.headerLen + n + c.tagLen
  · have hlen (hmax : n ≤ c.maxLen) : ¬ c.headerLen + n + c.tagLen ≤ d.length := by omega
    simp +contextual [hshort, hmin, hsync, hbad, hlen]
  obtain ⟨hmax, hfits⟩ : n ≤ c.maxLen ∧ c.headerLen + n + c.tagLen ≤ d.length := by omega
  by_cases htag : slice d (c.headerLen + n) c.tagLen = c.auth (d.take (c.headerLen + n))
  · simp [hshort, hmin, hsync, hbad, hmax, hfits, htag, eq_comm, and_comm]
  · simp [hshort, hmin, hsync, hbad, hmax, hfits, htag]

/-- Settles O23: each field between the fields before it and the rest, and the trailer over all of them. -/
theorem frameLayout : Obligations.FrameLayout := by
  rintro c ctr pl f rfl
  have hfields : c.frameEncode ctr pl = c.syncBytes ++ (ser 4 ctr.toNat c.order ++ (ser c.lenBytes pl.length c.order
      ++ (c.encPayload ctr pl ++ c.auth (c.header ctr pl.length ++ c.encPayload ctr pl)))) := by
    simp only [Codec.frameEncode, Codec.header, List.append_assoc]
  refine ⟨frameEncode_length c ctr pl, ?sync, ?counter, ?length, ?payload, ?tag⟩
  case sync => simpa [slice] using frameEncode_take_syncLen c ctr pl []
  case counter =>
    rw [hfields]
    exact slice_append (by simp) (by simp) _
  case length =>
    rw [hfields, ← List.append_assoc]
    exact slice_append (by simp) (by simp) _
  case payload => simpa using payloadField_frameEncode c ctr pl []
  case tag =>
    rintro d rfl
    have htag := tagField_frameEncode c ctr pl []
    rw [List.append_nil] at htag
    rw [htag, auth_eq]

/-- Settles O31: the quantities by the bits of PROFILE; under the reset profile the bits are those of 0x20. -/
theorem profileQuantities : Obligations.ProfileQuantities := by
  intro c
  refine ⟨syncLen_eq c, lenBytes_eq c, rfl, tagLen_eq c, rfl, rfl, rfl, rfl, rfl, fun hprofile hmax => ?_,
    profileLegal_iff c⟩
  have hS : c.syncLen = 2 := by rw [syncLen_eq, hprofile]; rfl
  have hLW : c.lenBytes = 1 := by rw [lenBytes_eq, hprofile]; rfl
  have hT : c.tagLen = 8 := by rw [tagLen_eq, hprofile]; rfl
  have hMAX : c.maxLen = 64 := by rw [Codec.maxLen, hmax]; rfl
  have hH : c.headerLen = 7 := by rw [Codec.headerLen, hS, hLW]
  exact ⟨hS, hLW, hH, hT, by rw [Codec.minFrame, hH, hT], by rw [Codec.maxFrame, hH, hMAX, hT]⟩

end Sys2Proof.Machine
end

section
/-! The register window (10_state.md R22-R49, 20_memory.md R60-R66): which accesses it takes, what they return and store, and
the bits of its two views of the state; and reset (70_reset_and_hazards.md R281). -/

namespace Sys2Proof.Machine

section Window
variable {s t : State}

/-! ### The map (20_memory.md R62, R63) -/

/-- The offsets of the registers, by their three ranges. -/
abbrev registerOffset (off : Nat) : Prop :=
  off ≤ 0x01C ∨ (0x020 ≤ off ∧ off ≤ 0x038) ∨ (0x040 ≤ off ∧ off ≤ 0x060)

theorem registerOffset_of_mem_regMap : ∀ row ∈ regMap, registerOffset row.1 := by decide

theorem regAt_isSome_of_registerOffset :
    ∀ off < 0x061, off % 4 = 0 → registerOffset off → (regAt off).isSome = true := by decide

/-- An aligned offset has a register exactly when it lies in one of the three ranges. -/
theorem regAt_eq_none_iff {off : Nat} (h4 : off % 4 = 0) : regAt off = none ↔ ¬ registerOffset off := by
  constructor
  · intro hnone hoff
    have hsome := regAt_isSome_of_registerOffset off (by omega) h4 hoff
    rw [hnone] at hsome
    contradiction
  · intro hoff
    cases hr : regAt off with
    | none => rfl
    | some r => exact absurd (registerOffset_of_mem_regMap _ (regAt_mem hr)) hoff

/-- An access reaches nothing exactly when it is narrow, misaligned or unmapped (R63). -/
theorem accessTarget_eq_none_iff {bufCap width : Nat} {off : Offset} :
    accessTarget bufCap width off = none ↔ ¬ (width = 32 ∧ mappedOffset bufCap off.toNat) := by
  rw [accessTarget]
  by_cases hw : width ≠ 32 ∨ off.toNat % 4 ≠ 0
  · rw [if_pos hw]
    exact iff_of_true rfl (by omega)
  · have h4 : off.toNat % 4 = 0 := by omega
    rw [if_neg hw]
    cases hr : regAt off.toNat with
    | some r =>
      have hoff : registerOffset off.toNat := by
        by_contra hnot
        rw [(regAt_eq_none_iff h4).mpr hnot] at hr
        contradiction
      exact iff_of_false (by simp) (by omega)
    | none =>
      have hoff := (regAt_eq_none_iff h4).mp hr
      have hbase : dataBase = 0x100 := rfl
      dsimp only
      split
      · exact iff_of_false (by simp) (by omega)
      · exact iff_of_true rfl (by omega)

/-- A 32-bit access to a word of the DATA window reaches that word (R65). -/
theorem accessTarget_dataWord {bufCap i : Nat} (hcap : Config.LegalBufCap bufCap) (hi : i < bufCap / 4) :
    accessTarget bufCap 32 (BitVec.ofNat 12 (0x100 + 4 * i)) = some (.data (4 * i)) := by
  have hoff : (BitVec.ofNat 12 (0x100 + 4 * i)).toNat = 0x100 + 4 * i := Nat.mod_eq_of_lt (by omega)
  have hr : regAt (0x100 + 4 * i) = none := (regAt_eq_none_iff (by omega)).mpr (by omega)
  have hbase : dataBase = 0x100 := rfl
  rw [accessTarget, hoff, if_neg (by omega), hr]
  dsimp only
  rw [if_pos (by omega), hbase, Nat.add_sub_cancel_left]

/-! ### Accesses that reach nothing, and those that reach something -/

theorem hostRead_of_target {width : Nat} {off : Offset} {target : Target}
    (h : accessTarget s.bufCap width off = some target) :
    hostRead width off s = .next { s with env := { s.env with readData := some (readTarget s target) } } := by
  rw [hostRead, h]

theorem hostRead_of_no_target {width : Nat} {off : Offset} (h : accessTarget s.bufCap width off = none) :
    hostRead width off s = .fault (.busError off) := by
  rw [hostRead, h]

theorem hostWrite_of_no_target {width : Nat} {off : Offset} (h : accessTarget s.bufCap width off = none) (v : Word) :
    hostWrite width off v s = .fault (.busError off) := by
  rw [hostWrite, h]

theorem hostWrite_of_data {width : Nat} {off : Offset} {i : Nat}
    (h : accessTarget s.bufCap width off = some (.data i)) (v : Word) :
    hostWrite width off v s = .next (writeDataWord s i v) := by
  rw [hostWrite, h]

/-- A command word always has a next state, legal or not. -/
theorem runCommand_completes (v : Word) (s : State) : ∃ t, runCommand v s = .next t := by
  rw [runCommand]
  split
  · exact exec_completes _ s
  · exact ⟨_, rfl⟩

/-- A host write that reaches something has a next state. -/
theorem hostWrite_completes {width : Nat} {off : Offset} (h : accessTarget s.bufCap width off ≠ none) (v : Word) :
    ∃ t, hostWrite width off v s = .next t := by
  rw [hostWrite]
  split
  · contradiction
  · exact runCommand_completes v s
  · exact ⟨_, rfl⟩
  · exact ⟨_, rfl⟩

/-! ### The words of the DATA window (R65) -/

/-- Byte `j` of a word, the lowest first. -/
theorem serLE_word_getElem? (v : Word) {j : Nat} (hj : j < 4) :
    (serLE 4 v.toNat)[j]? = some (v.extractLsb' (8 * j) 8) := by
  have hpow : 256 ^ j = 2 ^ (8 * j) := by rw [Nat.pow_mul]
  rw [serLE_getElem? hj, hpow, ← Nat.shiftRight_eq_div_pow, BitVec.extractLsb']

/-- Byte `j` of a word that is read is the byte at its index. -/
theorem readDataWord_byte (s : State) (i : Nat) {j : Nat} (hj : j < 4) :
    (readDataWord s i).extractLsb' (8 * j) 8 = s.data.read (i + j) := by
  apply Option.some_inj.mp
  rw [← serLE_word_getElem? _ hj, readDataWord, serLE_le32 (readBytes_length _ _ _), readBytes_getElem? _ _ _ _ hj]

/-- Byte `j` of a word that is written goes to its index. -/
theorem writeDataWord_byte (hwf : s.data.wf) (i : Nat) (v : Word) {j : Nat} (hj : j < 4) :
    (writeDataWord s i v).data.read (i + j) = v.extractLsb' (8 * j) 8 := by
  rw [writeDataWord, read_writeBytes hwf, serLE_length, if_pos (by omega), Nat.add_sub_cancel_left,
    List.getD_eq_getElem?_getD, serLE_word_getElem? v hj, Option.getD_some]

/-- Every other byte stays. -/
theorem writeDataWord_other (hwf : s.data.wf) (i : Nat) (v : Word) {a : Nat} (ha : a < i ∨ i + 4 ≤ a) :
    (writeDataWord s i v).data.read a = s.data.read a := by
  rw [writeDataWord, read_writeBytes hwf, serLE_length, if_neg (by omega)]

/-! ### The bits of STATUS and IRQ_STATUS (10_state.md R24, R42) -/

/-- STATUS bit by bit. -/
theorem statusWord_getLsbD (s : State) (i : Nat) : s.statusWord.getLsbD i =
    if i < 8 then s.statusCode.code.getLsbD i
    else if i = 8 then s.initDone
    else if i < 11 then s.rxState.code.getLsbD (i - 9)
    else if i = 11 then s.txBusy
    else if i = 12 then s.rxReady
    else i = 13 && s.rxHalt := by
  simp only [State.statusWord, BitVec.getLsbD_or, BitVec.getLsbD_shiftLeft, BitVec.getLsbD_setWidth,
    BitVec.getLsbD_ofBool]
  grind

theorem rxReady_iff : s.rxReady = true ↔ s.rxState = .frameReady := decide_eq_true_iff

theorem rxHalt_iff : s.rxHalt = true ↔ s.rxState = .halted := decide_eq_true_iff

/-- IRQ_STATUS bit by bit. -/
theorem irqStatus_bits (s : State) :
    s.irqStatus.getLsbD 0 = s.rxReady ∧ s.irqStatus.getLsbD 1 = s.txDone ∧ s.irqStatus.getLsbD 2 = s.rxHalt := by
  simp [State.irqStatus]

/-- A masked word is not 0 exactly when some bit is set in it and in the mask. -/
theorem and_ne_zero_iff {w : Nat} (x y : BitVec w) :
    x &&& y ≠ 0 ↔ ∃ i < w, x.getLsbD i = true ∧ y.getLsbD i = true := by
  rw [ne_eq, BitVec.eq_of_getLsbD_eq_iff]
  simp

/-- With no source enabled the line is low (60_exceptions.md R260). -/
theorem irq_eq_false_of_irqEnable (h : s.irqEnable = 0) : s.irq = false := by
  simp [State.irq, h]

end Window

/-! ### The obligations of the window -/

/-- Settles O49: an access that reaches nothing is a bus error, which the step marks; any other has its own next state. -/
theorem busErrorExactly : Obligations.BusErrorExactly := by
  intro s width off v e rest hp he
  refine ⟨fun hbad => ?_, fun hgood => ?_⟩
  · have hnone : accessTarget s.bufCap width off = none := accessTarget_eq_none_iff.mpr hbad
    have hfault (u : State) (hu : u.bufCap = s.bufCap) : runEvent e u = .fault (.busError off) := by
      rw [← hu] at hnone
      rcases he with rfl | rfl
      · exact hostRead_of_no_target hnone
      · exact hostWrite_of_no_target hnone v
    refine ⟨hfault s rfl, ?_⟩
    rw [step_of_pending s hp, hfault s.afterPop rfl, settle_busError, afterPop_eq hp]
    rfl
  · obtain ⟨target, htarget⟩ := Option.ne_none_iff_exists'.mp (mt accessTarget_eq_none_iff.mp (not_not.mpr hgood))
    obtain ⟨t, hrun, hfaults⟩ : ∃ t, runEvent e s.afterPop = .next t ∧ t.env.hostFaults = s.env.hostFaults := by
      rcases he with rfl | rfl
      · exact ⟨_, hostRead_of_target htarget, rfl⟩
      · obtain ⟨t, ht⟩ := hostWrite_completes (s := s.afterPop) (Option.ne_none_iff_exists'.mpr ⟨target, htarget⟩) v
        exact ⟨t, ht, (hostWrite_agents ht).2⟩
    have hstep : step s = .next t := by rw [step_of_pending s hp, hrun, settle_next]
    exact ⟨t, hstep, by rw [step_pending hstep, hp, List.tail_cons], hfaults⟩

/-- Settles O55: the access reaches word `4 * i`, which is written and read byte by byte. -/
theorem dataWindowWords : Obligations.DataWindowWords := by
  intro s i v hcap hwf hi
  have htarget := accessTarget_dataWord hcap hi
  exact ⟨⟨_, hostWrite_of_data htarget v, rfl, fun j hj => writeDataWord_byte hwf (4 * i) v hj,
      fun a ha => writeDataWord_other hwf (4 * i) v ha⟩,
    _, hostRead_of_target htarget, fun j hj => readDataWord_byte s (4 * i) hj⟩

/-- Settles O56: which target an access reaches depends on the capacity alone, and no target's word on what differs. -/
theorem readsDoNotRevealTheKey : Obligations.ReadsDoNotRevealTheKey := by
  intro s k0 k1 k2 k3 rk rxb txb width off t ht
  have hreach : accessTarget t.bufCap width off = accessTarget s.bufCap width off := by rw [ht]
  have hword (target : Target) : readTarget t target = readTarget s target := by
    subst ht
    cases target with
    | reg r => cases r <;> rfl
    | data i => rfl
  rw [runEvent, runEvent]
  cases htarget : accessTarget s.bufCap width off with
  | none =>
    rw [hostRead_of_no_target htarget, hostRead_of_no_target (hreach.trans htarget)]
    exact ⟨fun f => Iff.rfl, fun s' hs' => absurd hs' (by simp)⟩
  | some target =>
    rw [hostRead_of_target htarget, hostRead_of_target (hreach.trans htarget)]
    refine ⟨fun f => by simp, fun s' hs' => ⟨_, rfl, ?_⟩⟩
    injection hs' with hs'
    rw [← hs', hword]

/-- Settles O50: the list is the register map with what each register reads as. -/
theorem registerReads : Obligations.RegisterReads := by
  intro s off v hmem
  have hrow : (off, v) ∈ regMap.map fun row => (BitVec.ofNat 12 row.1, readReg s row.2) := hmem
  obtain ⟨⟨o, r⟩, hm, heq⟩ := List.mem_map.mp hrow
  obtain ⟨rfl, rfl⟩ := Prod.mk.inj heq
  have hsmall : ∀ row ∈ regMap, row.1 < 2 ^ 12 := by decide
  have hoff : (BitVec.ofNat 12 o).toNat = o := Nat.mod_eq_of_lt (hsmall _ hm)
  exact hostRead_of_mem_regMap (hoff.symm ▸ hm)

/-- Settles O54: each write reaches its register, and a narrower register keeps the low bits. -/
theorem registerWrites : Obligations.RegisterWrites := by
  intro s v
  have hwrite {off : Offset} {r : Reg} (hm : (off.toNat, r) ∈ regMap) (hr : r ≠ .cmd) :
      runEvent (.hostWrite 32 off v) s = .next (writeReg s r v) := hostWrite_of_mem_regMap v hm hr
  refine ⟨hwrite (r := .arg0) (by decide) (by decide), hwrite (r := .arg1) (by decide) (by decide), ?_, fun hi => ?_⟩
  · rw [hwrite (r := .irqEnable) (by decide) (by decide), writeReg, BitVec.setWidth_eq_extractLsb' (by decide)]
  · rw [hwrite (r := .key0) (by decide) (by decide), hwrite (r := .key1) (by decide) (by decide),
      hwrite (r := .key2) (by decide) (by decide), hwrite (r := .key3) (by decide) (by decide),
      hwrite (r := .profile) (by decide) (by decide), hwrite (r := .sync) (by decide) (by decide),
      hwrite (r := .maxPayload) (by decide) (by decide)]
    simp [writeReg, hi, BitVec.setWidth_eq_extractLsb']

/-- Settles O51: the fields of STATUS from its bits; the code values are those of the definitions. -/
theorem statusBits : Obligations.StatusBits := by
  refine ⟨fun s => ⟨?code, statusWord_getLsbD s 8, ?rx, statusWord_getLsbD s 11, ?_, ?_, ?reserved⟩, rfl, rfl, rfl, rfl, rfl,
    rfl, rfl, rfl, rfl, rfl, rfl, rfl, rfl, rfl, rfl, rfl, rfl⟩
  case code =>
    ext i hi
    rw [BitVec.getElem_extractLsb', Nat.zero_add, statusWord_getLsbD, if_pos hi, BitVec.getLsbD_eq_getElem]
  case rx =>
    ext i hi
    rw [BitVec.getElem_extractLsb', statusWord_getLsbD, if_neg (by omega), if_neg (by omega), if_pos (by omega),
      Nat.add_sub_cancel_left, BitVec.getLsbD_eq_getElem]
  case reserved =>
    ext i hi
    rw [BitVec.getElem_extractLsb', statusWord_getLsbD, if_neg (by omega), if_neg (by omega), if_neg (by omega),
      if_neg (by omega), if_neg (by omega)]
    simp
    omega
  · rw [← rxReady_iff]
    exact Bool.eq_iff_iff.mp (statusWord_getLsbD s 12)
  · rw [← rxHalt_iff]
    exact Bool.eq_iff_iff.mp (statusWord_getLsbD s 13)

/-- Settles O52: the masked word has a bit where a source is pending and enabled. -/
theorem irqIsPendingAndEnabled : Obligations.IrqIsPendingAndEnabled := by
  intro s
  obtain ⟨hready, hdone, hhalt⟩ := irqStatus_bits s
  refine ⟨?_, by rw [hready, rxReady_iff], hdone, by rw [hhalt, rxHalt_iff]⟩
  rw [State.irq, bne_iff_ne, and_ne_zero_iff]

/-! ### Reset -/

/-- A draw that lists every byte below the capacity gives those bytes. -/
theorem read_drawnBuffer {cap a : Nat} (f : Nat → Byte) (ha : a < cap) :
    (drawnBuffer cap ((List.range cap).map f)).read a = f a := by
  rw [drawnBuffer, read_writeBytes_zero nil_wf]
  simp [ha]

/-- A draw that lists every word of a schedule gives it. -/
theorem schedule_of_toList (rk : KeySchedule) (data rxBuf txBuf : List Byte) :
    ResetDraw.schedule ⟨rk.toList, data, rxBuf, txBuf⟩ = rk := by
  ext i hi
  simp [ResetDraw.schedule]

/-- Settles O58: the reset values are those of `State.reset`, and every assignment is a draw. -/
theorem resetRestoresEveryRegister : Obligations.ResetRestoresEveryRegister := by
  refine fun s => ⟨fun d => ⟨resetEngine d s, rfl, ?values⟩, fun rk f g h => ?draws⟩
  case values =>
    exact ⟨rfl, rfl, rfl, rfl, rfl, rfl, rfl, rfl, rfl, rfl, rfl, rfl, rfl, rfl, rfl, rfl, rfl, rfl, rfl, rfl, rfl, rfl, rfl,
      rfl, rfl, irq_eq_false_of_irqEnable rfl, rfl, rfl⟩
  case draws =>
    have hdraw (f : Nat → Byte) {a : Nat} (ha : a < s.bufCap) := read_drawnBuffer f ha
    exact ⟨⟨rk.toList, (List.range s.bufCap).map f, (List.range s.bufCap).map g, (List.range s.bufCap).map h⟩, _, rfl,
      schedule_of_toList rk _ _ _, fun a ha => ⟨hdraw f ha, hdraw g ha, hdraw h ha⟩⟩

end Sys2Proof.Machine
end
